-- ==== Sys2Proof/Word.lean ====
section
/-! DEFINITION. The machine's word: 16 bits everywhere (spec/00_scope.md R6). -/

namespace Sys2Proof

/-- The native word: every bus, register, memory cell and ALU operand is 16 bits wide (R6, R7). -/
abbrev Word := BitVec 16

end Sys2Proof
end

