-- ==== Sys2Proof/Config.lean ====
section
/-! DEFINITION. What an implementation or platform fixes, and the one free value (spec/00_scope.md R7,
spec/93_implementation_defined.md). -/

namespace Sys2Proof.Config

/-- `IAR0`, the entry point: a parameter of the machine whose value for the reference layout is 0x0500
(spec/10_state.md R47, decision D14). DESIGN CHOICE of the reference value, log 2. -/
def iar0 : Word := 0x0500

/-- The number of memory words, 2^16 (spec/20_memory.md R60, R7). -/
def memoryWords : Nat := 65536

/-- The words the reference platform places at 0xFEFE and 0xFEFF: `JMP 0x0500` (spec/20_memory.md R73, decision
D26). They are part of an image, not of the core, so reset memory does not hold them. -/
def loopBackImage : List (Word × Word) := [(0xFEFE, 0x0040), (0xFEFF, 0x0500)]

/-- FREE VALUE: the word an active peripheral drives onto the main bus at an IN when no input is queued for it
(spec/47_flags_and_io.md R331, R336; spec/93_implementation_defined.md K5 "any value"). Its arguments: the
count of INs so far, so that each IN has a fresh value; the peripheral's fixed address; `da`; the peripheral's
internal register. It has no body: nothing can be proved about its value. DESIGN CHOICE of the form, log 9. -/
opaque periphWord : Nat → Word → Bool → Word → Word

end Sys2Proof.Config
end

