-- ==== Sys2Proof/Syntax.lean ====
section
/-! DEFINITION. The instructions: one constructor per row of spec/opcode_table.json (spec/30_encoding.md R97, R98). -/

namespace Sys2Proof

/-- The four general-purpose registers, R0 to R3 (spec/10_state.md R31). -/
inductive Reg where
  | r0 | r1 | r2 | r3
  deriving DecidableEq, Repr

/-- The Data or Addr choice of IN and OUT, `da` = IR[2] (spec/30_encoding.md R95). -/
inductive IoSel where
  | data | addr
  deriving DecidableEq, Repr

/-- The flags a JMPIF names: IR[3:0] = C A E Z (spec/30_encoding.md R95, decision D9). -/
structure FlagMask where
  c : Bool
  a : Bool
  e : Bool
  z : Bool
  deriving DecidableEq, Repr

/-- An instruction with its operands. `a` and `b` are the register fields IR[3:2] and IR[1:0]; `lit` and `addr` are
the whole second word (R96). In the rows the source does not list, `ign` is the field the control network ignores
(R98). The ignored high byte of the opcode word is no part of an instruction (R90). -/
inductive Instr where
  /-- R260: load R[b] from the word at R[a]. -/
  | ld (a b : Reg)
  /-- R261: store R[b] to the word at R[a]. -/
  | st (a b : Reg)
  /-- R262: load the second word into R[b]. -/
  | data (b : Reg) (lit : Word)
  /-- R310: jump to the address in R[b]. -/
  | jr (b : Reg)
  /-- R311: jump to the address in the second word. -/
  | jmp (addr : Word)
  /-- R312: jump to the second word if a flag of the mask is set; the mask is not empty. -/
  | jmpif (mask : FlagMask) (addr : Word)
  /-- R330: clear the flags. -/
  | clf
  /-- R331: read a word from the I/O bus into R[b]. -/
  | inp (da : IoSel) (b : Reg)
  /-- R332: write R[b] to the I/O bus. -/
  | outp (da : IoSel) (b : Reg)
  /-- R281. -/
  | add (a b : Reg)
  /-- R282. -/
  | shr (a b : Reg)
  /-- R283. -/
  | shl (a b : Reg)
  /-- R284. -/
  | not (a b : Reg)
  /-- R285. -/
  | and (a b : Reg)
  /-- R286. -/
  | or (a b : Reg)
  /-- R287. -/
  | xor (a b : Reg)
  /-- R288. -/
  | cmp (a b : Reg)
  /-- R98: bytes 0x24 to 0x2F, which execute as DATA; `ign` = IR[3:2], not 00. -/
  | dataUndef (ign : BitVec 2) (b : Reg) (lit : Word)
  /-- R98: bytes 0x34 to 0x3F, which execute as JR; `ign` = IR[3:2], not 00. -/
  | jrUndef (ign : BitVec 2) (b : Reg)
  /-- R98: bytes 0x41 to 0x4F, which execute as JMP; `ign` = IR[3:0], not 0000. -/
  | jmpUndef (ign : BitVec 4) (addr : Word)
  /-- R313: byte 0x50, a JMPIF with an empty mask; the second word is stepped over. -/
  | jmpifEmpty (addr : Word)
  /-- R98: bytes 0x61 to 0x6F, which execute as CLF; `ign` = IR[3:0], not 0000. -/
  | clfUndef (ign : BitVec 4)
  deriving DecidableEq, Repr

end Sys2Proof
end

