-- ==== Sys2Proof/WellFormed.lean ====
section
/-! DEFINITION. Which terms of `Instr` stand for words of the opcode map (spec/30_encoding.md R97, R98). -/

namespace Sys2Proof

/-- No flag is named. -/
def FlagMask.isEmpty (m : FlagMask) : Bool :=
  !(m.c || m.a || m.e || m.z)

/-- A row for the patterns the source does not list holds only those patterns: its ignored field is not the
canonical 0 (R98), and the empty flag mask is a row of its own (R313). Every other term is well formed. -/
def Instr.wellFormed : Instr → Bool
  | .ld _ _ => true
  | .st _ _ => true
  | .data _ _ => true
  | .jr _ => true
  | .jmp _ => true
  | .jmpif mask _ => !mask.isEmpty
  | .clf => true
  | .inp _ _ => true
  | .outp _ _ => true
  | .add _ _ => true
  | .shr _ _ => true
  | .shl _ _ => true
  | .not _ _ => true
  | .and _ _ => true
  | .or _ _ => true
  | .xor _ _ => true
  | .cmp _ _ => true
  | .dataUndef ign _ _ => ign != 0
  | .jrUndef ign _ => ign != 0
  | .jmpUndef ign _ => ign != 0
  | .jmpifEmpty _ => true
  | .clfUndef ign => ign != 0

end Sys2Proof
end

