-- ==== Sys2Proof/Decode.lean ====
section
/-! DEFINITION. The decoder and the encoder, from spec/30_encoding.md R90 to R99 and R101. -/

namespace Sys2Proof

/-- Bit `k` of a word, bit 0 the least significant (spec/00_scope.md R8). -/
def bit (w : Word) (k : Nat) : Bool := w.getLsbD k

/-- The eight classes of a word with IR[7] = 0 (R93, R94). -/
inductive InstrClass where
  | ld | st | data | jr | jmp | jmpif | clf | io
  deriving DecidableEq, Repr

/-- The eight ALU operations (spec/42_alu.md R191). -/
inductive AluOp where
  | add | shr | shl | not | and | or | xor | cmp
  deriving DecidableEq, Repr

/-- The register a 2-bit field names, high bit first (R96). -/
def Reg.ofBits : Bool → Bool → Reg
  | false, false => .r0
  | false, true => .r1
  | true, false => .r2
  | true, true => .r3

/-- `IR[6:4]` as a class, high bit first (R94). -/
def InstrClass.ofBits : Bool → Bool → Bool → InstrClass
  | false, false, false => .ld
  | false, false, true => .st
  | false, true, false => .data
  | false, true, true => .jr
  | true, false, false => .jmp
  | true, false, true => .jmpif
  | true, true, false => .clf
  | true, true, true => .io

/-- `IR[6:4]` as an ALU operation, high bit first (R92, spec/42_alu.md R191). -/
def AluOp.ofBits : Bool → Bool → Bool → AluOp
  | false, false, false => .add
  | false, false, true => .shr
  | false, true, false => .shl
  | false, true, true => .not
  | true, false, false => .and
  | true, false, true => .or
  | true, true, false => .xor
  | true, true, true => .cmp

/-- The 3-bit operation selector, the value of `IR[6:4]` (spec/42_alu.md R191). -/
def AluOp.code : AluOp → BitVec 3
  | .add => 0
  | .shr => 1
  | .shl => 2
  | .not => 3
  | .and => 4
  | .or => 5
  | .xor => 6
  | .cmp => 7

/-- Data is 0 and Addr is 1 (R95, decision D19). -/
def IoSel.ofBit : Bool → IoSel
  | false => .data
  | true => .addr

/-- `IR[7]`: is this a two-register ALU operation (R92). -/
def isAlu (w : Word) : Bool := bit w 7

/-- `IR[6:4]` as a class (R93). -/
def fieldClass (w : Word) : InstrClass := .ofBits (bit w 6) (bit w 5) (bit w 4)

/-- `IR[6:4]` as an ALU operation (R92). -/
def fieldOp (w : Word) : AluOp := .ofBits (bit w 6) (bit w 5) (bit w 4)

/-- `a = IR[3:2]`. -/
def fieldA (w : Word) : Reg := .ofBits (bit w 3) (bit w 2)

/-- `b = IR[1:0]`. -/
def fieldB (w : Word) : Reg := .ofBits (bit w 1) (bit w 0)

/-- `da = IR[2]`. -/
def fieldDa (w : Word) : IoSel := .ofBit (bit w 2)

/-- JMPIF's mask: C = IR[3], A = IR[2], E = IR[1], Z = IR[0] (R95, decision D9). -/
def fieldMask (w : Word) : FlagMask := ⟨bit w 3, bit w 2, bit w 1, bit w 0⟩

/-- `IR[3:2]` as the ignored field of DATA and JR (R95). -/
def fieldIgn2 (w : Word) : BitVec 2 := w.extractLsb' 2 2

/-- `IR[3:0]` as the ignored field of JMP and CLF (R95). -/
def fieldIgn4 (w : Word) : BitVec 4 := w.extractLsb' 0 4

/-- Two words when `IR[7] = 0` and the class is DATA, JMP or JMPIF, one otherwise (R91, R99). -/
def isTwoWord (w : Word) : Bool :=
  !isAlu w && (fieldClass w == .data || fieldClass w == .jmp || fieldClass w == .jmpif)

/-- The instruction of a two-register ALU word (R92). -/
def aluInstr (op : AluOp) (a b : Reg) : Instr :=
  match op with
  | .add => .add a b
  | .shr => .shr a b
  | .shl => .shl a b
  | .not => .not a b
  | .and => .and a b
  | .or => .or a b
  | .xor => .xor a b
  | .cmp => .cmp a b

/-- The instruction an opcode word `w` and the word after it stand for. It is total: every opcode byte is some
instruction (R98, R101), and `IR[15:8]` is not read (R90). `second` is read only by a 2-word class. -/
def instrOf (w second : Word) : Instr :=
  if isAlu w then aluInstr (fieldOp w) (fieldA w) (fieldB w)
  else
    match fieldClass w with
    | .ld => .ld (fieldA w) (fieldB w)
    | .st => .st (fieldA w) (fieldB w)
    | .data =>
      if fieldIgn2 w = 0 then .data (fieldB w) second else .dataUndef (fieldIgn2 w) (fieldB w) second
    | .jr => if fieldIgn2 w = 0 then .jr (fieldB w) else .jrUndef (fieldIgn2 w) (fieldB w)
    | .jmp => if fieldIgn4 w = 0 then .jmp second else .jmpUndef (fieldIgn4 w) second
    | .jmpif => if (fieldMask w).isEmpty then .jmpifEmpty second else .jmpif (fieldMask w) second
    | .clf => if fieldIgn4 w = 0 then .clf else .clfUndef (fieldIgn4 w)
    | .io => if bit w 3 then .outp (fieldDa w) (fieldB w) else .inp (fieldDa w) (fieldB w)

/-- Why a list of words is no instruction. The machine itself never meets either: memory always has a next word. -/
inductive DecodeError where
  /-- The list is empty. -/
  | noWord
  /-- The opcode word is of a 2-word instruction and no word follows it. -/
  | secondWordMissing
  deriving DecidableEq, Repr

/-- The instruction at the head of a list of words, with the words after it. -/
def decode : List Word → Except DecodeError (Instr × List Word)
  | [] => .error .noWord
  | w :: rest =>
    if isTwoWord w then
      match rest with
      | [] => .error .secondWordMissing
      | second :: rest' => .ok (instrOf w second, rest')
    else .ok (instrOf w 0, rest)

/-- The host's numbering: the first word is bits 15..0, the second word bits 31..16, and every bit from `nbits` up
is 0. A word has no byte order inside the core (spec/20_memory.md R70). -/
def tableWords (nbits w : Nat) : Word × Word :=
  let v := w % 2 ^ nbits
  (BitVec.ofNat 16 v, BitVec.ofNat 16 (v / 65536))

/-- What the decoder reads from the host's word. -/
def decodeTableWord (nbits w : Nat) : Option Instr :=
  match decode [(tableWords nbits w).1, (tableWords nbits w).2] with
  | .ok (i, _) => some i
  | .error _ => none

/-- A register's number in a field (R96). -/
def Reg.code : Reg → Word
  | .r0 => 0
  | .r1 => 1
  | .r2 => 2
  | .r3 => 3

/-- Data is 0 and Addr is 1 (R95). -/
def IoSel.code : IoSel → Word
  | .data => 0
  | .addr => 1

/-- The mask in `IR[3:0]`: `C<<3 | A<<2 | E<<1 | Z` (R97). -/
def FlagMask.code (m : FlagMask) : Word :=
  (if m.c then 8 else 0) ||| (if m.a then 4 else 0) ||| (if m.e then 2 else 0) ||| (if m.z then 1 else 0)

/-- `base | a<<2 | b`, the layout of every two-register word (R97). -/
def twoReg (base : Word) (a b : Reg) : Word := base ||| (a.code <<< 2) ||| b.code

/-- The words of an instruction, the high byte 0 (R97, R98). -/
def encode : Instr → List Word
  | .ld a b => [twoReg 0x00 a b]
  | .st a b => [twoReg 0x10 a b]
  | .data b lit => [0x20 ||| b.code, lit]
  | .jr b => [0x30 ||| b.code]
  | .jmp addr => [0x40, addr]
  | .jmpif mask addr => [0x50 ||| mask.code, addr]
  | .clf => [0x60]
  | .inp da b => [0x70 ||| (da.code <<< 2) ||| b.code]
  | .outp da b => [0x78 ||| (da.code <<< 2) ||| b.code]
  | .add a b => [twoReg 0x80 a b]
  | .shr a b => [twoReg 0x90 a b]
  | .shl a b => [twoReg 0xA0 a b]
  | .not a b => [twoReg 0xB0 a b]
  | .and a b => [twoReg 0xC0 a b]
  | .or a b => [twoReg 0xD0 a b]
  | .xor a b => [twoReg 0xE0 a b]
  | .cmp a b => [twoReg 0xF0 a b]
  | .dataUndef ign b lit => [0x20 ||| (ign.setWidth 16 <<< 2) ||| b.code, lit]
  | .jrUndef ign b => [0x30 ||| (ign.setWidth 16 <<< 2) ||| b.code]
  | .jmpUndef ign addr => [0x40 ||| ign.setWidth 16, addr]
  | .jmpifEmpty addr => [0x50, addr]
  | .clfUndef ign => [0x60 ||| ign.setWidth 16]

/-- A row of the opcode table: a word is in it when its masked bits equal `value`. -/
structure OpcodeRow where
  mask : Word
  value : Word
  mnemonic : String
  deriving DecidableEq, Repr

/-- The rows of spec/opcode_table.json for IR[7] = 0, canonical patterns before the ones the source does not list,
as the table's notes order them. The empty mask stands before JMPIF, whose own range is 0x51 to 0x5F (R94, log 14). -/
def nonAluRows : List OpcodeRow := [
  ⟨0x00F0, 0x0000, "LD_Ra_Rb"⟩,
  ⟨0x00F0, 0x0010, "ST_Ra_Rb"⟩,
  ⟨0x00FC, 0x0020, "DATA_Rb__lit"⟩,
  ⟨0x00FC, 0x0030, "JR_Rb"⟩,
  ⟨0x00FF, 0x0040, "JMP_addr"⟩,
  ⟨0x00FF, 0x0050, "JMPIF_empty_mask__undefined_0x50"⟩,
  ⟨0x00F0, 0x0050, "JMP_flags__addr__JMPIF"⟩,
  ⟨0x00FF, 0x0060, "CLF"⟩,
  ⟨0x00F8, 0x0070, "IN_Data_Addr__Rb"⟩,
  ⟨0x00F8, 0x0078, "OUT_Data_Addr__Rb"⟩,
  ⟨0x00F0, 0x0020, "DATA_Rb__lit__undefined_0x24-0x2F"⟩,
  ⟨0x00F0, 0x0030, "JR_Rb__undefined_0x34-0x3F"⟩,
  ⟨0x00F0, 0x0040, "JMP_addr__undefined_0x41-0x4F"⟩,
  ⟨0x00F0, 0x0060, "CLF__undefined_0x61-0x6F"⟩]

/-- The rows of spec/opcode_table.json for IR[7] = 1. -/
def aluRows : List OpcodeRow := [
  ⟨0x00F0, 0x0080, "ADD_Ra_Rb"⟩,
  ⟨0x00F0, 0x0090, "SHR_Ra_Rb"⟩,
  ⟨0x00F0, 0x00A0, "SHL_Ra_Rb"⟩,
  ⟨0x00F0, 0x00B0, "NOT_Ra_Rb"⟩,
  ⟨0x00F0, 0x00C0, "AND_Ra_Rb"⟩,
  ⟨0x00F0, 0x00D0, "OR_Ra_Rb"⟩,
  ⟨0x00F0, 0x00E0, "XOR_Ra_Rb"⟩,
  ⟨0x00F0, 0x00F0, "CMP_Ra_Rb"⟩]

/-- The whole opcode table. -/
def opcodeTable : List OpcodeRow := nonAluRows ++ aluRows

/-- The table's name for an opcode word: that of the first row it matches. -/
def tableMnemonic (w : Word) : Option String :=
  (opcodeTable.find? fun r => w &&& r.mask == r.value).map OpcodeRow.mnemonic

/-- The table's name for an instruction. -/
def Instr.mnemonic : Instr → String
  | .ld _ _ => "LD_Ra_Rb"
  | .st _ _ => "ST_Ra_Rb"
  | .data _ _ => "DATA_Rb__lit"
  | .jr _ => "JR_Rb"
  | .jmp _ => "JMP_addr"
  | .jmpif _ _ => "JMP_flags__addr__JMPIF"
  | .clf => "CLF"
  | .inp _ _ => "IN_Data_Addr__Rb"
  | .outp _ _ => "OUT_Data_Addr__Rb"
  | .add _ _ => "ADD_Ra_Rb"
  | .shr _ _ => "SHR_Ra_Rb"
  | .shl _ _ => "SHL_Ra_Rb"
  | .not _ _ => "NOT_Ra_Rb"
  | .and _ _ => "AND_Ra_Rb"
  | .or _ _ => "OR_Ra_Rb"
  | .xor _ _ => "XOR_Ra_Rb"
  | .cmp _ _ => "CMP_Ra_Rb"
  | .dataUndef _ _ _ => "DATA_Rb__lit__undefined_0x24-0x2F"
  | .jrUndef _ _ => "JR_Rb__undefined_0x34-0x3F"
  | .jmpUndef _ _ => "JMP_addr__undefined_0x41-0x4F"
  | .jmpifEmpty _ => "JMPIF_empty_mask__undefined_0x50"
  | .clfUndef _ => "CLF__undefined_0x61-0x6F"

end Sys2Proof
end

