-- ==== Sys2Proof/Machine/State.lean ====
section
/-! DEFINITION. Everything the machine holds between two `Step()` calls (spec/10_state.md R30), the attached
peripherals (spec/47_flags_and_io.md R334), the reasons a step or a host call can stop, and power-on. -/

namespace Sys2Proof.Machine

/-- The stepper's state: the reset phase and the six live phases (spec/10_state.md R41). -/
inductive Phase where
  | reset | p1 | p2 | p3 | p4 | p5 | p6
  deriving DecidableEq, Repr

/-- The Flags register: carry, A-larger, equal, zero (spec/10_state.md R38). `Flags.toBits` gives its bit layout. -/
structure Flags where
  c : Bool
  a : Bool
  e : Bool
  z : Bool
  deriving DecidableEq, Repr

/-- The four general-purpose registers (spec/10_state.md R31). Read and written through `RegFile.get` and `RegFile.set`. -/
structure RegFile where
  r0 : Word
  r1 : Word
  r2 : Word
  r3 : Word
  deriving DecidableEq, Repr

/-- The memory grid, a list of (address, word) pairs, in the canonical form `Memory.wf`: addresses strictly rising and
below 65536, no entry equal to what an unlisted address reads as. The smallest unit the machine can address is the
word (spec/20_memory.md R60), so a cell holds a word; log 4. -/
abbrev Memory := List (Nat × Word)

/-- What the core tells the peripherals at P4 of OUT: the Data or Addr choice and the word on the main bus
(spec/43_sequencer.md R215, spec/47_flags_and_io.md R332). -/
structure OutEvent where
  da : IoSel
  value : Word
  deriving DecidableEq, Repr

/-- `PERIPH_SELECT`: what an active peripheral does when an OUT Addr carries an address that is neither its own nor 0
(spec/47_flags_and_io.md R335, decision D21). -/
inductive SelectPolicy where
  | sticky | exclusive
  deriving DecidableEq, Repr

/-- An attached peripheral, as far as the I/O bus contract gives it state (spec/47_flags_and_io.md R334 to R336).
`inputs` and `capturesAddr` are the model's own fields: logs 9 and 13. -/
structure Peripheral where
  /-- Its fixed address (R335). -/
  address : Word
  /-- Its value of the parameter `PERIPH_SELECT` (R335, log 11). -/
  policy : SelectPolicy
  /-- Whether, while active, it also captures the word of an OUT Addr, which the spec leaves to it (N19, log 13). -/
  capturesAddr : Bool
  /-- Its active bit (R335). -/
  active : Bool
  /-- Its internal register (R336). -/
  reg : Word
  /-- The words the outside world has it drive at its next INs, oldest first (K5, log 9). -/
  inputs : List Word
  deriving DecidableEq, Repr

/-- The environment of the phase step: the peripherals together (spec/47_flags_and_io.md R334), with what the model
keeps about the exchanges. -/
structure Env where
  peripherals : List Peripheral
  /-- The events emitted so far, oldest first. The model's own field: log 10. -/
  events : List OutEvent
  /-- How many INs have run, so that every free word is a fresh one. The model's own field: log 9. -/
  draws : Nat
  deriving DecidableEq, Repr

/-- The state tuple of spec/10_state.md R30, with the environment beside it. -/
structure State where
  /-- `R[0..3]` (R31). -/
  regs : RegFile
  /-- The instruction-address register, the program counter (R33). -/
  iar : Word
  /-- The instruction register (R34). -/
  ir : Word
  /-- The memory-address register (R35). -/
  mar : Word
  /-- The accumulator (R36). -/
  acc : Word
  /-- The temporary register (R37). -/
  tmp : Word
  /-- The flags register (R38). -/
  flags : Flags
  /-- The carry-temp latch (R40). -/
  ct : Bool
  /-- The memory grid (spec/20_memory.md R60). -/
  mem : Memory
  /-- The stepper (R41). -/
  phase : Phase
  /-- The clock-state flag (R42). -/
  clk : Bool
  /-- The attached peripherals. -/
  env : Env
  deriving DecidableEq, Repr

/-- Why a step stops the machine. -/
inductive Fault where
  /-- Raised by the phase step, and by the meaning of IN, when more than one word is driven onto the main bus in a
  phase: the spec's own response, since it gives no winner (spec/40_storage_cells.md R135, decision D18, K2). It
  holds the phase and the instruction register, as spec/43_sequencer.md R215 has it. Safe: the model stops where
  the hardware would go on with one of the words. -/
  | multipleDrivers (phase : Phase) (ir : Word)
  deriving DecidableEq, Repr

/-- Why the model declines. No step of the machine declines; the host's calls do. -/
inductive Refusal where
  /-- Reserved for an instruction that has no meaning yet: no arm of `exec` answers it. Safe. -/
  | notModelled (mnemonic : String)
  /-- Raised by the host's writes between two phases of one instruction, which the spec leaves undefined
  (spec/60_exceptions.md R362, K8). Safe. -/
  | hostWriteInsideInstruction (phase : Phase)
  /-- Raised by loading an image after the first `Step()` (spec/60_exceptions.md R362), as log 22 decides it. Safe. -/
  | imageAfterFirstStep (phase : Phase)
  /-- Raised by attaching a peripheral after the first `Step()` (spec/60_exceptions.md R362, decision D33), as log 22
  decides it. Safe. -/
  | attachAfterFirstStep (phase : Phase)
  deriving DecidableEq, Repr

/-- The machine right after it is built: stepper in RESET, `clk` false, IAR at `IAR0`, no peripheral attached
(spec/10_state.md R47, spec/70_reset_and_hazards.md R381). Where the spec leaves a value to `INIT`, the value is that
of `INIT = zero`: DESIGN CHOICE, logs 1 and 3. -/
def State.reset : State where
  regs := ⟨0, 0, 0, 0⟩
  iar := Config.iar0
  ir := 0
  mar := 0
  acc := 0
  tmp := 0
  flags := ⟨false, false, false, false⟩
  ct := false
  mem := []
  phase := .reset
  clk := false
  env := ⟨[], [], 0⟩

end Sys2Proof.Machine
end

