-- ==== Sys2Proof/Machine/Flags.lean ====
section
/-! DEFINITION. The flags: their bit layout, how an ALU result sets them, and the jump condition
(spec/10_state.md R38 and R39, spec/42_alu.md R194 to R198, spec/43_sequencer.md R221). -/

namespace Sys2Proof.Machine

/-- Bit 0 carry, bit 1 A-larger, bit 2 equal, bit 3 zero (spec/42_alu.md R198). -/
def Flags.toBits (f : Flags) : BitVec 4 :=
  BitVec.ofBool f.z ++ BitVec.ofBool f.e ++ BitVec.ofBool f.a ++ BitVec.ofBool f.c

/-- The register a 4-bit value of the flags bus stands for (R198). -/
def Flags.ofBits (v : BitVec 4) : Flags :=
  ⟨v.getLsbD 0, v.getLsbD 1, v.getLsbD 2, v.getLsbD 3⟩

/-- All four flags 0, what CLF leaves (spec/47_flags_and_io.md R330). -/
def Flags.clear : Flags := ⟨false, false, false, false⟩

/-- The flags of an operation on inputs `x` and `y` with output `out` and carry `c`: A and E compare the inputs,
unsigned, for every operation; Z tests the output (spec/42_alu.md R196, R197). -/
def aluFlags (x y out : Word) (c : Bool) : Flags where
  c := c
  a := decide (y.toNat < x.toNat)
  e := decide (x = y)
  z := decide (out = 0)

/-- `COND`: some flag the mask names is set (spec/43_sequencer.md R221). -/
def Flags.cond (f : Flags) (m : FlagMask) : Bool :=
  (f.c && m.c) || (f.a && m.a) || (f.e && m.e) || (f.z && m.z)

end Sys2Proof.Machine
end

