-- ==== Sys2Proof/Machine/Alu.lean ====
section
/-! DEFINITION. The ALU as the function the spec gives it (spec/42_alu.md R193). Its gate-level structure is in
Sys2Proof/Machine/AluGates.lean. -/

namespace Sys2Proof.Machine

/-- The ALU's result bus and flags bus (spec/42_alu.md R190). -/
structure AluResult where
  out : Word
  flags : Flags
  deriving DecidableEq, Repr

/-- BusOne, in front of the ALU's B input: the constant 1 while BUS1 is asserted, TMP's output otherwise (spec/41_functional_units.md R159,
spec/42_alu.md R201). -/
def busOne (bus1 : Bool) (x : Word) : Word := if bus1 then 1 else x

/-- A bit as a word. -/
def bitWord (b : Bool) : Word := if b then 1 else 0

/-- The exact sum of the adder, 0 to 2^17 - 1 (spec/41_functional_units.md R151). -/
def adderSum (x y : Word) (cin : Bool) : Nat := x.toNat + y.toNat + cin.toNat

/-- The output word of each operation (R193). CMP puts nothing on the result bus. -/
def aluOut (op : AluOp) (x y : Word) (cin : Bool) : Word :=
  match op with
  | .add => BitVec.ofNat 16 (adderSum x y cin)
  | .shr => (x >>> 1) ||| (bitWord cin <<< 15)
  | .shl => (x <<< 1) ||| bitWord cin
  | .not => ~~~x
  | .and => x &&& y
  | .or => x ||| y
  | .xor => x ^^^ y
  | .cmp => 0

/-- The carry-out, which only ADD, SHR and SHL assert (R193, R194). -/
def aluCarry (op : AluOp) (x y : Word) (cin : Bool) : Bool :=
  match op with
  | .add => decide (65536 ≤ adderSum x y cin)
  | .shr => bit x 0
  | .shl => bit x 15
  | .not => false
  | .and => false
  | .or => false
  | .xor => false
  | .cmp => false

/-- `Alu(a, b, op, cin)` (R193). -/
def alu (op : AluOp) (x y : Word) (cin : Bool) : AluResult where
  out := aluOut op x y cin
  flags := aluFlags x y (aluOut op x y cin) (aluCarry op x y cin)

/-- Every operation but CMP is written back at P6 (spec/43_sequencer.md R226, spec/45_alu_instructions.md R280). -/
def aluWritesRegister (op : AluOp) : Bool :=
  match op with
  | .add => true
  | .shr => true
  | .shl => true
  | .not => true
  | .and => true
  | .or => true
  | .xor => true
  | .cmp => false

end Sys2Proof.Machine
end

