-- ==== Sys2Proof/Machine/Ops.lean ====
section
/-! DEFINITION. The named operations over memory, registers and state, and the fetch. The hardware takes no exception
and returns from none (spec/60_exceptions.md R350, R354), so there is no operation for either. -/

namespace Sys2Proof.Machine

/-! ### Memory -/

/-- What a word the memory list does not name reads as. The spec gives memory outside the image no power-on value;
this is that of `INIT = zero` (spec/20_memory.md R81). DESIGN CHOICE, log 3. -/
def Memory.unlisted : Word := 0

/-- `MemRead(addr)` (spec/00_scope.md R10, spec/20_memory.md R63). -/
def Memory.read : Memory → Nat → Word
  | [], _ => Memory.unlisted
  | (k, v) :: t, a => if k = a then v else Memory.read t a

/-- The list without its entries for an address. -/
def Memory.without : Memory → Nat → Memory
  | [], _ => []
  | (k, v) :: t, a => if k = a then Memory.without t a else (k, v) :: Memory.without t a

/-- The list with an entry put in before the first larger address. -/
def Memory.insertCell (a : Nat) (v : Word) : Memory → Memory
  | [] => [(a, v)]
  | (k, x) :: t => if a < k then (a, v) :: (k, x) :: t else (k, x) :: Memory.insertCell a v t

/-- `MemWrite(addr, v)` (spec/00_scope.md R10, spec/20_memory.md R64). Writing what an unlisted word reads as removes
the entry, so equal memories are equal lists. -/
def Memory.write (m : Memory) (a : Nat) (v : Word) : Memory :=
  if v = Memory.unlisted then m.without a else Memory.insertCell a v (m.without a)

/-- The canonical form from address `lo` on. -/
def Memory.wfFrom : Nat → Memory → Bool
  | _, [] => true
  | lo, (k, v) :: t =>
    decide (lo ≤ k) && decide (k < Config.memoryWords) && decide (v ≠ Memory.unlisted) && Memory.wfFrom (k + 1) t

/-- The canonical form: addresses strictly rising and inside the address space, no entry that an unlisted address
would read as. -/
def Memory.wf (m : Memory) : Bool := Memory.wfFrom 0 m

/-! ### Registers -/

/-- `R[i]` (spec/10_state.md R31). -/
def RegFile.get (f : RegFile) : Reg → Word
  | .r0 => f.r0
  | .r1 => f.r1
  | .r2 => f.r2
  | .r3 => f.r3

/-- `R[i] <- v` (spec/10_state.md R31). No register is hardwired. -/
def RegFile.set (f : RegFile) (r : Reg) (v : Word) : RegFile :=
  match r with
  | .r0 => { f with r0 := v }
  | .r1 => { f with r1 := v }
  | .r2 => { f with r2 := v }
  | .r3 => { f with r3 := v }

/-! ### State -/

/-- Read register `r`. -/
def State.reg (s : State) (r : Reg) : Word := s.regs.get r

/-- Read the memory word at an address; every address is valid (spec/20_memory.md R62). -/
def State.load (s : State) (addr : Word) : Word := s.mem.read addr.toNat

/-- `R[r] <- v`. -/
def State.setReg (s : State) (r : Reg) (v : Word) : State := { s with regs := s.regs.set r v }

/-- `IAR <- v`. -/
def State.setIar (s : State) (v : Word) : State := { s with iar := v }

/-- `IR <- v`. -/
def State.setIr (s : State) (v : Word) : State := { s with ir := v }

/-- `MAR <- v`. -/
def State.setMar (s : State) (v : Word) : State := { s with mar := v }

/-- `ACC <- v`. -/
def State.setAcc (s : State) (v : Word) : State := { s with acc := v }

/-- `TMP <- v`. -/
def State.setTmp (s : State) (v : Word) : State := { s with tmp := v }

/-- `FLAGS <- f`. All four flags are written together (spec/10_state.md R38). -/
def State.setFlags (s : State) (f : Flags) : State := { s with flags := f }

/-- `CT <- b`. -/
def State.setCt (s : State) (b : Bool) : State := { s with ct := b }

/-- `M[addr] <- v`. -/
def State.store (s : State) (addr v : Word) : State := { s with mem := s.mem.write addr.toNat v }

/-- The stepper is in `p`. -/
def State.setPhase (s : State) (p : Phase) : State := { s with phase := p }

/-- The clock-state flag is toggled, once per half-cycle (spec/10_state.md R42). -/
def State.toggleClk (s : State) : State := { s with clk := !s.clk }

/-- The environment after an exchange. -/
def State.setEnv (s : State) (e : Env) : State := { s with env := e }

/-! ### Fetch: P1 to P3, the same for every instruction (spec/43_sequencer.md R227) -/

/-- P1: `MAR <- IAR`, `ACC <- IAR + 1`, modulo 2^16 (spec/10_state.md R33). -/
def fetchAddress (s : State) : State := (s.setMar s.iar).setAcc (s.iar + 1)

/-- P2: `IR <- M[MAR]`. -/
def fetchWord (s : State) : State := s.setIr (s.load s.mar)

/-- P3: `IAR <- ACC`. -/
def fetchAdvance (s : State) : State := s.setIar s.acc

/-- P1, P2 and P3. -/
def fetch (s : State) : State := (fetchAdvance (fetchWord (fetchAddress s))).setPhase .p3

/-- The instruction at IAR: its opcode word, and the word after it, which a 2-word instruction uses. A read has no
effect (spec/20_memory.md R71), so looking at the second word here is as good as reading it at P5 or P6: log 7. -/
def nextInstr (s : State) : Instr := instrOf (s.load s.iar) (s.load (s.iar + 1))

end Sys2Proof.Machine
end

