-- ==== Sys2Proof/Machine/Operands.lean ====
section
/-! DEFINITION. The operand forms (spec/30_encoding.md R95, R96, R103): a register read or written, a register that
holds an address, and the second word. Meanings run on the state the fetch leaves, where IAR is A + 1. -/

namespace Sys2Proof.Machine

/-- ALU input A, the data of ST and OUT, and the target of JR: the value of a register. -/
def operandValue (s : State) (r : Reg) : Word := s.reg r

/-- The address LD and ST use: the value of Ra (spec/44_memory_instructions.md R260, R261). -/
def operandAddress (s : State) (a : Reg) : Word := s.reg a

/-- P4 of JMP: `MAR <- IAR`, the address of the second word (spec/43_sequencer.md R226). -/
def addressSecondWord (s : State) : State := s.setMar s.iar

/-- P4 of DATA and JMPIF: `MAR <- IAR`, `ACC <- IAR + 1`; and their `IAR <- ACC`, at P6 and at P5 (R226). -/
def stepOverSecondWord (s : State) : State :=
  let s4 := (addressSecondWord s).setAcc (s.iar + 1)
  s4.setIar s4.acc

/-- The end of an instruction: the stepper has run P6 (spec/43_sequencer.md R231). -/
def finish (s : State) : State := s.setPhase .p6

end Sys2Proof.Machine
end

