-- ==== Sys2Proof/Machine/Io.lean ====
section
/-! DEFINITION. The I/O bus: the peripherals as the environment of the core, and the main bus's value
(spec/40_storage_cells.md R135, spec/47_flags_and_io.md R333 to R337). -/

namespace Sys2Proof.Machine

/-- The main bus in a phase, from the words driven onto it: 0x0000 with no driver, the word with one, and no value
with more (spec/40_storage_cells.md R135). -/
def mainBus : List Word → Option Word
  | [] => some 0
  | [v] => some v
  | _ :: _ :: _ => none

/-- `da` as a bit (spec/30_encoding.md R95). -/
def ioBit : IoSel → Bool
  | .data => false
  | .addr => true

/-- The word an active peripheral drives: the input queued for it, and otherwise a free value (R336, K5, log 9). -/
def Peripheral.word (p : Peripheral) (draw : Nat) (da : IoSel) : Word :=
  match p.inputs with
  | [] => Config.periphWord draw p.address (ioBit da) p.reg
  | v :: _ => v

/-- `env.drive(da)`: the words of the active peripherals; an inactive one drives nothing (R334, R336). -/
def Env.drive (e : Env) (da : IoSel) : List Word :=
  (e.peripherals.filter (·.active)).map (·.word e.draws da)

/-- A peripheral after an IN: an active one has driven its queued input. -/
def Peripheral.driven (p : Peripheral) : Peripheral :=
  if p.active then { p with inputs := p.inputs.tail } else p

/-- The environment after an IN. -/
def Env.afterDrive (e : Env) : Env :=
  { e with peripherals := e.peripherals.map Peripheral.driven, draws := e.draws + 1 }

/-- The active bit after an OUT Addr with the word `v` (R335): 0 deselects, the own address selects, any other is
left to `PERIPH_SELECT`. Deselection comes first, so a peripheral at address 0 is never active: log 12. -/
def Peripheral.activeAfterAddr (p : Peripheral) (v : Word) : Bool :=
  if v = 0 then false
  else if v = p.address then true
  else
    match p.policy with
    | .sticky => p.active
    | .exclusive => false

/-- What a peripheral does at an event: at an OUT Addr it is selected or deselected, and while active it captures the
word if it is of the kind that does; at an OUT Data, while active, it captures the word (R335, R336). -/
def Peripheral.observe (p : Peripheral) (ev : OutEvent) : Peripheral :=
  match ev.da with
  | .data => { p with reg := if p.active then ev.value else p.reg }
  | .addr =>
    { p with
      reg := if p.active && p.capturesAddr then ev.value else p.reg
      active := p.activeAfterAddr ev.value }

/-- `emit OutEvent(da, v)`: every attached peripheral sees it (R332, R334). -/
def Env.observe (e : Env) (ev : OutEvent) : Env :=
  { e with peripherals := e.peripherals.map (·.observe ev), events := e.events ++ [ev] }

/-- `emit` on the whole state. -/
def emit (s : State) (da : IoSel) (v : Word) : State := s.setEnv (s.env.observe ⟨da, v⟩)

end Sys2Proof.Machine
end

