-- ==== Sys2Proof/Machine/AluInstrs.lean ====
section
/-! DEFINITION. The eight ALU instructions (spec/45_alu_instructions.md R280 to R288). -/

namespace Sys2Proof.Machine

/-- The schedule every ALU instruction shares (R280): P4 `TMP <- R[b]`, `CT <- FLAGS.C`; P5 the ALU works on R[a],
TMP and CT, and `ACC` and `FLAGS` take its result; P6 `R[b] <- ACC`, but for CMP. -/
def aluInstruction (op : AluOp) (a b : Reg) (s : State) : State :=
  let s4 := (s.setTmp (operandValue s b)).setCt s.flags.c
  let r := alu op (operandValue s4 a) s4.tmp s4.ct
  let s5 := (s4.setAcc r.out).setFlags r.flags
  finish (if aluWritesRegister op then s5.setReg b s5.acc else s5)

/-- ADD Ra,Rb (R281). -/
def execAdd (a b : Reg) (s : State) : Host.Outcome State Fault Refusal := .next (aluInstruction .add a b s)

/-- SHR Ra,Rb (R282). -/
def execShr (a b : Reg) (s : State) : Host.Outcome State Fault Refusal := .next (aluInstruction .shr a b s)

/-- SHL Ra,Rb (R283). -/
def execShl (a b : Reg) (s : State) : Host.Outcome State Fault Refusal := .next (aluInstruction .shl a b s)

/-- NOT Ra,Rb (R284). -/
def execNot (a b : Reg) (s : State) : Host.Outcome State Fault Refusal := .next (aluInstruction .not a b s)

/-- AND Ra,Rb (R285). -/
def execAnd (a b : Reg) (s : State) : Host.Outcome State Fault Refusal := .next (aluInstruction .and a b s)

/-- OR Ra,Rb (R286). -/
def execOr (a b : Reg) (s : State) : Host.Outcome State Fault Refusal := .next (aluInstruction .or a b s)

/-- XOR Ra,Rb (R287). -/
def execXor (a b : Reg) (s : State) : Host.Outcome State Fault Refusal := .next (aluInstruction .xor a b s)

/-- CMP Ra,Rb (R288): the flags and ACC, no register. -/
def execCmp (a b : Reg) (s : State) : Host.Outcome State Fault Refusal := .next (aluInstruction .cmp a b s)

end Sys2Proof.Machine
end

