-- ==== Sys2Proof/Machine/FlagsIoInstrs.lean ====
section
/-! DEFINITION. CLF, IN, OUT and the patterns that execute as CLF (spec/47_flags_and_io.md R330 to R332,
spec/30_encoding.md R98). -/

namespace Sys2Proof.Machine

/-- The effect of CLF (R330): P4 `FLAGS <- 0000`. -/
def clearFlags (s : State) : State := finish (s.setFlags Flags.clear)

/-- CLF (R330). -/
def execClf (s : State) : Host.Outcome State Fault Refusal := .next (clearFlags s)

/-- Opcode bytes 0x61 to 0x6F execute as CLF (R98, R330): `IR[3:0]` is ignored. -/
def execClfUndef (_ign : BitVec 4) (s : State) : Host.Outcome State Fault Refusal := .next (clearFlags s)

/-- IN Data,Rb and IN Addr,Rb (R331): at P5 `R[b]` takes the main bus, which only the peripherals drive; with no
active one that is 0x0000, and with more than one the step faults (decision D18). -/
def execInp (da : IoSel) (b : Reg) (s : State) : Host.Outcome State Fault Refusal :=
  match mainBus (s.env.drive da) with
  | some v => .next (finish ((s.setReg b v).setEnv s.env.afterDrive))
  | none => .fault (.multipleDrivers .p5 s.ir)

/-- OUT Data,Rb and OUT Addr,Rb (R332): at P4 the core emits `OutEvent(da, R[b])`. -/
def execOutp (da : IoSel) (b : Reg) (s : State) : Host.Outcome State Fault Refusal :=
  .next (finish (emit s da (operandValue s b)))

end Sys2Proof.Machine
end

