-- ==== Sys2Proof/Machine/Jumps.lean ====
section
/-! DEFINITION. JR, JMP, JMPIF and the patterns that execute as them (spec/46_control_transfer.md R310 to R313,
spec/30_encoding.md R98). -/

namespace Sys2Proof.Machine

/-- The effect of JR Rb (R310): P4 `IAR <- R[b]`. -/
def jumpToRegister (b : Reg) (s : State) : State := finish (s.setIar (operandValue s b))

/-- JR Rb (R310). -/
def execJr (b : Reg) (s : State) : Host.Outcome State Fault Refusal := .next (jumpToRegister b s)

/-- Opcode bytes 0x34 to 0x3F execute as JR R[b] (R98, R310): `IR[3:2]` is ignored. -/
def execJrUndef (_ign : BitVec 2) (b : Reg) (s : State) : Host.Outcome State Fault Refusal :=
  .next (jumpToRegister b s)

/-- The effect of JMP addr (R311): P4 `MAR <- IAR`; P5 `IAR <- addr`, the word at MAR. -/
def jumpToAddress (addr : Word) (s : State) : State := finish ((addressSecondWord s).setIar addr)

/-- JMP addr (R311). -/
def execJmp (addr : Word) (s : State) : Host.Outcome State Fault Refusal := .next (jumpToAddress addr s)

/-- Opcode bytes 0x41 to 0x4F execute as JMP (R98, R311): `IR[3:0]` is ignored. -/
def execJmpUndef (_ign : BitVec 4) (addr : Word) (s : State) : Host.Outcome State Fault Refusal :=
  .next (jumpToAddress addr s)

/-- The effect of JMPIF (R312): P4 and P5 step over the second word; P6, if COND, `IAR <- addr`, the word at MAR. -/
def jumpIf (mask : FlagMask) (addr : Word) (s : State) : State :=
  let s5 := stepOverSecondWord s
  finish (if s5.flags.cond mask then s5.setIar addr else s5)

/-- JMPIF flags,addr (R312). -/
def execJmpif (mask : FlagMask) (addr : Word) (s : State) : Host.Outcome State Fault Refusal :=
  .next (jumpIf mask addr s)

/-- Opcode byte 0x50 (R313): COND is 0 for every FLAGS value, so the second word is stepped over and no more. -/
def execJmpifEmpty (addr : Word) (s : State) : Host.Outcome State Fault Refusal :=
  .next (jumpIf ⟨false, false, false, false⟩ addr s)

end Sys2Proof.Machine
end

