-- ==== Sys2Proof/Machine/MemoryInstrs.lean ====
section
/-! DEFINITION. LD, ST, DATA and the patterns that execute as DATA (spec/44_memory_instructions.md R260 to R262,
spec/30_encoding.md R98). A meaning is P4 to P6 on the state the fetch leaves: log 6. -/

namespace Sys2Proof.Machine

/-- LD Ra,Rb (R260): P4 `MAR <- R[a]`; P5 `R[b] <- M[MAR]`. -/
def execLd (a b : Reg) (s : State) : Host.Outcome State Fault Refusal :=
  let s4 := s.setMar (operandAddress s a)
  .next (finish (s4.setReg b (s4.load s4.mar)))

/-- ST Ra,Rb (R261): P4 `MAR <- R[a]`; P5 `M[MAR] <- R[b]`. -/
def execSt (a b : Reg) (s : State) : Host.Outcome State Fault Refusal :=
  let s4 := s.setMar (operandAddress s a)
  .next (finish (s4.store s4.mar (operandValue s4 b)))

/-- The effect of DATA Rb,lit (R262): P4 `MAR <- IAR`, `ACC <- IAR + 1`; P5 `R[b] <- lit`, the word at MAR; P6
`IAR <- ACC`. -/
def loadLiteral (b : Reg) (lit : Word) (s : State) : State :=
  finish ((stepOverSecondWord s).setReg b lit)

/-- DATA Rb,lit (R262). -/
def execData (b : Reg) (lit : Word) (s : State) : Host.Outcome State Fault Refusal :=
  .next (loadLiteral b lit s)

/-- Opcode bytes 0x24 to 0x2F execute as DATA R[b] (R98, R262): `IR[3:2]` is ignored. -/
def execDataUndef (_ign : BitVec 2) (b : Reg) (lit : Word) (s : State) : Host.Outcome State Fault Refusal :=
  .next (loadLiteral b lit s)

end Sys2Proof.Machine
end

