-- ==== Sys2Proof/Machine/Dispatch.lean ====
section
/-! DEFINITION. The meaning of every instruction, on the state the fetch leaves. -/

namespace Sys2Proof.Machine

def exec (i : Instr) (s : State) : Host.Outcome State Fault Refusal :=
  match i with
  | .ld a b => Sys2Proof.Machine.execLd a b s
  | .st a b => Sys2Proof.Machine.execSt a b s
  | .data b lit => Sys2Proof.Machine.execData b lit s
  | .jr b => Sys2Proof.Machine.execJr b s
  | .jmp addr => Sys2Proof.Machine.execJmp addr s
  | .jmpif mask addr => Sys2Proof.Machine.execJmpif mask addr s
  | .clf => Sys2Proof.Machine.execClf s
  | .inp da b => Sys2Proof.Machine.execInp da b s
  | .outp da b => Sys2Proof.Machine.execOutp da b s
  | .add a b => Sys2Proof.Machine.execAdd a b s
  | .shr a b => Sys2Proof.Machine.execShr a b s
  | .shl a b => Sys2Proof.Machine.execShl a b s
  | .not a b => Sys2Proof.Machine.execNot a b s
  | .and a b => Sys2Proof.Machine.execAnd a b s
  | .or a b => Sys2Proof.Machine.execOr a b s
  | .xor a b => Sys2Proof.Machine.execXor a b s
  | .cmp a b => Sys2Proof.Machine.execCmp a b s
  | .dataUndef ign b lit => Sys2Proof.Machine.execDataUndef ign b lit s
  | .jrUndef ign b => Sys2Proof.Machine.execJrUndef ign b s
  | .jmpUndef ign addr => Sys2Proof.Machine.execJmpUndef ign addr s
  | .jmpifEmpty addr => Sys2Proof.Machine.execJmpifEmpty addr s
  | .clfUndef ign => Sys2Proof.Machine.execClfUndef ign s

end Sys2Proof.Machine
end

