-- ==== Sys2Proof/Machine/Control.lean ====
section
/-! DEFINITION. The stepper and the control network: the lines each phase asserts, as equations
(spec/43_sequencer.md R212 to R225). -/

namespace Sys2Proof.Machine

/-- One full pulse of the stepper (R212): RESET is left for P1 and never met again (R213). -/
def Phase.next : Phase → Phase
  | .reset => .p1
  | .p1 => .p2
  | .p2 => .p3
  | .p3 => .p4
  | .p4 => .p5
  | .p5 => .p6
  | .p6 => .p1

/-- `n` full pulses. -/
def Phase.pulses : Nat → Phase → Phase
  | 0, p => p
  | n + 1, p => Phase.pulses n p.next

/-- The stepper's output lines `P1` to `P6`, one-hot, all 0 in RESET (R212). -/
def Phase.lines (p : Phase) : List Bool :=
  [p == .p1, p == .p2, p == .p3, p == .p4, p == .p5, p == .p6]

/-- The phase after `k` of the six, counted modulo 6 from P1 (R214). -/
def Phase.ofIndex (k : Nat) : Phase :=
  match k % 6 with
  | 0 => .p1
  | 1 => .p2
  | 2 => .p3
  | 3 => .p4
  | 4 => .p5
  | _ => .p6

/-- An instruction boundary: P6 has run, or nothing has run since power-on (R231, spec/70_reset_and_hazards.md R390;
power-on counts as one, log 17). -/
def Phase.isBoundary (p : Phase) : Bool :=
  match p with
  | .reset => true
  | .p1 => false
  | .p2 => false
  | .p3 => false
  | .p4 => false
  | .p5 => false
  | .p6 => true

/-- Every line the control network drives in a phase (spec/00_scope.md R11). `regAEn`, `regBEn` and `regBSet` are the
register-select requests of R220. -/
structure Control where
  bus1 : Bool
  iarEn : Bool
  ramEn : Bool
  accEn : Bool
  regAEn : Bool
  regBEn : Bool
  ioClockEnable : Bool
  marSet : Bool
  irSet : Bool
  iarSet : Bool
  accSet : Bool
  tmpSet : Bool
  ctSet : Bool
  flagsSet : Bool
  ramSet : Bool
  regBSet : Bool
  ioClockSet : Bool
  aluOp : AluOp
  cin : Bool
  deriving DecidableEq, Repr

/-- The decode signals of R217, from `IR[7:0]`. -/
structure DecodeSignals where
  alu : Bool
  ld : Bool
  st : Bool
  data : Bool
  jr : Bool
  jmp : Bool
  jmpif : Bool
  clf : Bool
  outI : Bool
  inI : Bool
  cmpI : Bool
  deriving DecidableEq, Repr

/-- `CL[n] = NOT IR[7] AND (IR[6:4] = n)` (R217). -/
def classLine (ir : Word) (c : InstrClass) : Bool := !isAlu ir && fieldClass ir == c

/-- R217. -/
def decodeSignals (ir : Word) : DecodeSignals where
  alu := isAlu ir
  ld := classLine ir .ld
  st := classLine ir .st
  data := classLine ir .data
  jr := classLine ir .jr
  jmp := classLine ir .jmp
  jmpif := classLine ir .jmpif
  clf := classLine ir .clf
  outI := classLine ir .io && bit ir 3
  inI := classLine ir .io && !bit ir 3
  cmpI := isAlu ir && fieldOp ir == .cmp

/-- `Control(p, IR, FLAGS)` with the ALU control of R222, which also reads CT: the Enable lines of R218, the Set lines
of R219, `COND` of R221. -/
def controlLines (p : Phase) (ir : Word) (flags : Flags) (ct : Bool) : Control :=
  let p1 := p == .p1
  let p2 := p == .p2
  let p3 := p == .p3
  let p4 := p == .p4
  let p5 := p == .p5
  let p6 := p == .p6
  let d := decodeSignals ir
  let cond := flags.cond (fieldMask ir)
  { bus1 := p1 || (p4 && (d.data || d.jmpif || d.clf))
    iarEn := p1 || (p4 && (d.data || d.jmp || d.jmpif))
    ramEn := p2 || (p5 && (d.ld || d.data || d.jmp)) || (p6 && d.jmpif)
    accEn := p3 || (p5 && d.jmpif) || (p6 && (d.data || (d.alu && !d.cmpI)))
    regAEn := (p4 && (d.ld || d.st)) || (p5 && d.alu)
    regBEn := (p4 && (d.alu || d.jr || d.outI)) || (p5 && d.st)
    ioClockEnable := p5 && d.inI
    marSet := p1 || (p4 && (d.ld || d.st || d.data || d.jmp || d.jmpif))
    irSet := p2
    iarSet := p3 || (p4 && d.jr) || (p5 && (d.jmp || d.jmpif)) || (p6 && (d.data || (d.jmpif && cond)))
    accSet := p1 || (p4 && (d.data || d.jmpif)) || (p5 && d.alu)
    tmpSet := p4 && d.alu
    ctSet := p4 && d.alu
    flagsSet := (p4 && d.clf) || (p5 && d.alu)
    ramSet := p5 && d.st
    regBSet := (p5 && (d.ld || d.data || d.inI)) || (p6 && d.alu && !d.cmpI)
    ioClockSet := p4 && d.outI
    aluOp := if p5 && d.alu then fieldOp ir else .add
    cin := p5 && d.alu && ct }

/-- `R_en[n] = (RegA_en AND a = n) OR (RegB_en AND b = n)` (R220). -/
def Control.regEn (c : Control) (ir : Word) (n : Reg) : Bool :=
  (c.regAEn && fieldA ir == n) || (c.regBEn && fieldB ir == n)

/-- `R_set[n] = RegB_set AND b = n` (R220). -/
def Control.regSet (c : Control) (ir : Word) (n : Reg) : Bool :=
  c.regBSet && fieldB ir == n

/-- The four I/O bus lines. -/
structure IoLines where
  clockSet : Bool
  clockEnable : Bool
  mode : Bool
  dataOrAddress : Bool
  deriving DecidableEq, Repr

/-- The I/O bus lines in phase `p` with `ir` in the instruction register (R225): Mode is the direction, 1 for output,
and DataOrAddress the address choice. Before the first phase all four are false (spec/10_state.md R47, decision D19). -/
def ioLines (p : Phase) (ir : Word) : IoLines where
  clockSet := p == .p4 && classLine ir .io && bit ir 3
  clockEnable := p == .p5 && classLine ir .io && !bit ir 3
  mode := p != .reset && bit ir 3
  dataOrAddress := p != .reset && bit ir 2

end Sys2Proof.Machine
end

