-- ==== Sys2Proof/Machine/Phase.lean ====
section
/-! DEFINITION. The phase transition: one `Step()` of the host (spec/43_sequencer.md R210, R215). -/

namespace Sys2Proof.Machine

/-- A component's word, if its Enable line is asserted (spec/40_storage_cells.md R131, R135). -/
def driveIf (en : Bool) (v : Word) : List Word := if en then [v] else []

/-- The words the core's components drive onto the main bus, in the order of R215. -/
def coreDrivers (c : Control) (s : State) : List Word :=
  driveIf c.iarEn s.iar ++ driveIf c.accEn s.acc ++ driveIf c.ramEn (s.load s.mar) ++
    driveIf (c.regEn s.ir .r0) s.regs.r0 ++ driveIf (c.regEn s.ir .r1) s.regs.r1 ++
    driveIf (c.regEn s.ir .r2) s.regs.r2 ++ driveIf (c.regEn s.ir .r3) s.regs.r3

/-- The words the peripherals drive: some only while `IO_ClockEnable` is asserted (R215, R232). -/
def ioDrivers (c : Control) (s : State) : List Word :=
  if c.ioClockEnable then s.env.drive (fieldDa s.ir) else []

/-- The set pass of R215: every component whose Set line is asserted latches; every right-hand side reads `s` or the
bus. -/
def latch (c : Control) (bus : Word) (s : State) : State :=
  let r := alu c.aluOp bus (busOne c.bus1 s.tmp) c.cin
  { s with
    regs :=
      ⟨if c.regSet s.ir .r0 then bus else s.regs.r0, if c.regSet s.ir .r1 then bus else s.regs.r1,
        if c.regSet s.ir .r2 then bus else s.regs.r2, if c.regSet s.ir .r3 then bus else s.regs.r3⟩
    mar := if c.marSet then bus else s.mar
    ir := if c.irSet then bus else s.ir
    iar := if c.iarSet then bus else s.iar
    acc := if c.accSet then r.out else s.acc
    tmp := if c.tmpSet then bus else s.tmp
    ct := if c.ctSet then s.flags.c else s.ct
    flags := if c.flagsSet then r.flags else s.flags
    mem := if c.ramSet then s.mem.write s.mar.toNat bus else s.mem }

/-- The exchange with the peripherals of a phase (R232): at P5 of IN they have driven, at P4 of OUT they observe. -/
def exchange (c : Control) (da : IoSel) (bus : Word) (e : Env) : Env :=
  if c.ioClockEnable then e.afterDrive
  else if c.ioClockSet then e.observe ⟨da, bus⟩
  else e

/-- `PhaseStep(S, env)`, one `Step()` of the host (R215). `clk` goes to true for the first half-cycle and back for the
second (R210). -/
def phaseStep (s : State) : Host.Outcome State Fault Refusal :=
  let p := s.phase.next
  let c := controlLines p s.ir s.flags s.ct
  match mainBus (coreDrivers c s ++ ioDrivers c s) with
  | none => .fault (.multipleDrivers p s.ir)
  | some bus =>
    .next (((latch c bus s).setEnv (exchange c (fieldDa s.ir) bus s.env)).setPhase p).toggleClk.toggleClk

/-- `n` calls of `Step()`. -/
def phaseSteps : Nat → State → Host.Outcome State Fault Refusal
  | 0, s => .next s
  | n + 1, s =>
    match phaseStep s with
    | .next t => phaseSteps n t
    | .fault f => .fault f
    | .refused r => .refused r

/-- How many `Step()` calls are left of the instruction in progress; none at a boundary (R231). -/
def Phase.remaining : Phase → Nat
  | .reset => 0
  | .p1 => 5
  | .p2 => 4
  | .p3 => 3
  | .p4 => 2
  | .p5 => 1
  | .p6 => 0

/-- Complete the instruction in progress, phase by phase (R231). -/
def resume (s : State) : Host.Outcome State Fault Refusal := phaseSteps s.phase.remaining s

end Sys2Proof.Machine
end

