-- ==== Sys2Proof/Machine/Step.lean ====
section
/-! DEFINITION. One step: the machine runs to its next instruction boundary. -/

namespace Sys2Proof.Machine

/-- At an instruction boundary, fetch the instruction at IAR and run it. Inside an instruction, where only a host that
has called `Step()` by itself can leave the machine, complete it phase by phase (spec/43_sequencer.md R228, R231).
One `Step()` of the hardware is `phaseStep`; that a step from a boundary is six of them is a claim about the two.
Log 6. -/
def step (s : State) : Host.Outcome State Fault Refusal :=
  if s.phase.isBoundary then exec (nextInstr s) (fetch s) else resume s

/-- The state whose next step fetches and runs exactly the host's instruction: its words at IAR and IAR + 1, and the
stepper at an instruction boundary if it was not at one. Log 16. -/
def State.withFetchWord (s : State) (nbits w : Nat) : State :=
  let words := tableWords nbits w
  let placed := (s.store (s.iar + 1) words.2).store s.iar words.1
  if s.phase.isBoundary then placed else placed.setPhase .p6

end Sys2Proof.Machine
end

