-- ==== Sys2Proof/Machine/Gates.lean ====
section
/-! DEFINITION. The circuit primitives: gates, the latch cell and the word register with its enabler
(spec/40_storage_cells.md R121 to R131). The machine's step uses their functions at the phase level (R126, R130, R131);
claims say that the two agree. Log 19. -/

namespace Sys2Proof.Machine

/-- R121. -/
def gateNand (x y : Bool) : Bool := !(x && y)

/-- NOT as its NAND composition (R122). -/
def gateNot (x : Bool) : Bool := gateNand x x

/-- AND as its NAND composition (R122). -/
def gateAnd (x y : Bool) : Bool := gateNot (gateNand x y)

/-- OR as its NAND composition (R122). -/
def gateOr (x y : Bool) : Bool := gateNand (gateNot x) (gateNot y)

/-- NOR as its NAND composition (R122). -/
def gateNor (x y : Bool) : Bool := gateNot (gateOr x y)

/-- XOR as its NAND composition (R122). -/
def gateXor (x y : Bool) : Bool :=
  let n := gateNand x y
  gateNand (gateNand x n) (gateNand y n)

/-- `ANDn`: the reduction of the 2-input gate (R124). -/
def gateAndN : List Bool → Bool
  | [] => true
  | x :: t => gateAnd x (gateAndN t)

/-- `ORn`: the reduction of the 2-input gate (R124). -/
def gateOrN : List Bool → Bool
  | [] => false
  | x :: t => gateOr x (gateOrN t)

/-- The four NAND gates of a latch cell; `g2` is the output (R128). -/
structure LatchGates where
  g0 : Bool
  g1 : Bool
  g2 : Bool
  g3 : Bool
  deriving DecidableEq, Repr

/-- One internal pass: g0, g1, g2 and g3 in that order (R128). -/
def LatchGates.pass (g : LatchGates) (i s : Bool) : LatchGates :=
  let g0 := gateNand i s
  let g1 := gateNand g0 s
  let g2 := gateNand g0 g.g3
  let g3 := gateNand g2 g1
  ⟨g0, g1, g2, g3⟩

/-- One external `Update(i, s)`: exactly two internal passes (R127). -/
def LatchGates.update (g : LatchGates) (i s : Bool) : LatchGates := (g.pass i s).pass i s

/-- A cell that holds `q`: the consistent state `g2 = q`, `g3 = NOT q` (R128). -/
def LatchGates.holds (g : LatchGates) (q : Bool) : Bool := g.g2 == q && g.g3 == !q

/-- The latch cell's function (R126). -/
def latchNext (q i s : Bool) : Bool := if s then i else q

/-- The number whose lowest `n` bits are given, the others 0. -/
def bitsValue (f : Nat → Bool) : Nat → Nat
  | 0 => 0
  | n + 1 => bitsValue f n + (if f n then 2 ^ n else 0)

/-- A word from its bits, bit 0 the least significant (spec/00_scope.md R8). -/
def wordOfBits (f : Nat → Bool) : Word := BitVec.ofNat 16 (bitsValue f 16)

/-- A word register: 16 latch cells with one Set line (R129, R130). -/
def wordRegisterNext (q input : Word) (set : Bool) : Word :=
  wordOfBits fun k => latchNext (bit q k) (bit input k) set

/-- The enabler: 16 AND gates with one Enable line (R131). -/
def enabler (q : Word) (enable : Bool) : Word := wordOfBits fun k => gateAnd (bit q k) enable

end Sys2Proof.Machine
end

