-- ==== Sys2Proof/Machine/Units.lean ====
section
/-! DEFINITION. The functional units, gate by gate (spec/41_functional_units.md R150 to R163). BusOne (R159) is
`busOne` in Sys2Proof/Machine/Alu.lean. -/

namespace Sys2Proof.Machine

/-! ### Ripple adder -/

/-- A full adder's sum (R150). -/
def fullAdderSum (x y cin : Bool) : Bool := gateXor (gateXor x y) cin

/-- A full adder's carry-out (R150). -/
def fullAdderCarry (x y cin : Bool) : Bool := gateOr (gateAnd x y) (gateAnd cin (gateXor x y))

/-- The carry into full adder `k` of the chain, least significant bit first (R151). -/
def rippleCarry (a b : Word) (cin : Bool) : Nat → Bool
  | 0 => cin
  | k + 1 => fullAdderCarry (bit a k) (bit b k) (rippleCarry a b cin k)

/-- The ripple adder's sum (R151). -/
def rippleSum (a b : Word) (cin : Bool) : Word :=
  wordOfBits fun k => fullAdderSum (bit a k) (bit b k) (rippleCarry a b cin k)

/-- The ripple adder's carry-out, that of full adder 15 (R151). -/
def rippleCarryOut (a b : Word) (cin : Bool) : Bool := rippleCarry a b cin 16

/-! ### Ripple comparator -/

/-- The running equal and A-larger signals. -/
structure Comparison where
  equal : Bool
  larger : Bool
  deriving DecidableEq, Repr

/-- One comparator stage (R152). -/
def Comparison.stage (c : Comparison) (x y : Bool) : Comparison where
  equal := gateAnd c.equal (gateNot (gateXor x y))
  larger := gateOr c.larger (gateAnd (gateAnd c.equal x) (gateNot y))

/-- The signals after the first `n` stages, bit 15 first (R153). -/
def compareStages (a b : Word) : Nat → Comparison
  | 0 => ⟨true, false⟩
  | n + 1 => (compareStages a b n).stage (bit a (15 - n)) (bit b (15 - n))

/-- The ripple comparator: 16 stages (R153). -/
def rippleCompare (a b : Word) : Comparison := compareStages a b 16

/-! ### Shifters -/

/-- The left shifter's word (R154). -/
def leftShift (x : Word) (shiftIn : Bool) : Word := wordOfBits fun k => if k = 0 then shiftIn else bit x (k - 1)

/-- The left shifter's shift-out (R154). -/
def leftShiftOut (x : Word) : Bool := bit x 15

/-- The right shifter's word (R155). -/
def rightShift (x : Word) (shiftIn : Bool) : Word := wordOfBits fun k => if k = 15 then shiftIn else bit x (k + 1)

/-- The right shifter's shift-out (R155). -/
def rightShiftOut (x : Word) : Bool := bit x 0

/-! ### Zero detector and word-wide combiners -/

/-- OR-reduce all bits, then NOT (R157). -/
def zeroDetect (x : Word) : Bool := gateNot (gateOrN ((List.range 16).map (bit x)))

/-- The AND unit (R158). -/
def combineAnd (a b : Word) : Word := wordOfBits fun k => gateAnd (bit a k) (bit b k)

/-- The OR unit (R158). -/
def combineOr (a b : Word) : Word := wordOfBits fun k => gateOr (bit a k) (bit b k)

/-- The XOR unit (R158). -/
def combineXor (a b : Word) : Word := wordOfBits fun k => gateXor (bit a k) (bit b k)

/-- The NOT unit (R158). -/
def combineNot (a : Word) : Word := wordOfBits fun k => gateNot (bit a k)

/-! ### Decoders -/

/-- Line `j` of a k-to-2^k decoder: the AND of the select lines, those whose bit of `j` is 0 negated (R160). -/
def decoderLine {k : Nat} (sel : BitVec k) (j : Nat) : Bool :=
  gateAndN ((List.range k).map fun i => if j.testBit i then sel.getLsbD i else gateNot (sel.getLsbD i))

/-- The decoder's "index of the set line" accessor (R160): the first line that is 1. -/
def decoderIndex {k : Nat} (sel : BitVec k) : Nat := (List.range (2 ^ k)).findIdx (decoderLine sel)

/-- Line `n` of the 8-to-256 decoder: a 4-to-16 selector on the high bits picks the 4-to-16 child that decodes the low
bits (R162). -/
def decoder256Line (sel : BitVec 8) (n : Nat) : Bool :=
  gateAnd (decoderLine (sel.extractLsb' 4 4) (n / 16)) (decoderLine (sel.extractLsb' 0 4) (n % 16))

end Sys2Proof.Machine
end

