-- ==== Sys2Proof/Machine/AluGates.lean ====
section
/-! DEFINITION. The ALU as the units the spec builds it from (spec/42_alu.md R190 to R198). The machine's step uses
`alu`, the function R193 gives; a claim says that the two agree on every input. -/

namespace Sys2Proof.Machine

/-- The shared result bus: every unit computes, and the enabler of the decoded line alone lets its word through; CMP's
line has none (R192). -/
def aluGatesOut (op : BitVec 3) (a b : Word) (cin : Bool) : Word :=
  enabler (rippleSum a b cin) (decoderLine op 0) ||| enabler (rightShift a cin) (decoderLine op 1) |||
    enabler (leftShift a cin) (decoderLine op 2) ||| enabler (combineNot a) (decoderLine op 3) |||
    enabler (combineAnd a b) (decoderLine op 4) ||| enabler (combineOr a b) (decoderLine op 5) |||
    enabler (combineXor a b) (decoderLine op 6)

/-- The carry-out, gated by the ADD, SHR and SHL lines (R194). -/
def aluGatesCarry (op : BitVec 3) (a b : Word) (cin : Bool) : Bool :=
  gateOrN [gateAnd (decoderLine op 0) (rippleCarryOut a b cin), gateAnd (decoderLine op 1) (rightShiftOut a),
    gateAnd (decoderLine op 2) (leftShiftOut a)]

/-- The ALU's outputs (R190): the comparator runs for every operation (R196), and the zero detector tests the selected
output (R197). -/
def aluGates (op : BitVec 3) (a b : Word) (cin : Bool) : AluResult where
  out := aluGatesOut op a b cin
  flags :=
    ⟨aluGatesCarry op a b cin, (rippleCompare a b).larger, (rippleCompare a b).equal,
      zeroDetect (aluGatesOut op a b cin)⟩

end Sys2Proof.Machine
end

