-- ==== Sys2Proof/Machine/Grid.lean ====
section
/-! DEFINITION. The memory grid, cell by cell (spec/20_memory.md R60 to R64). The machine reads and writes memory by
address (`Memory.read`, `Memory.write`); claims say that the cells behave so. -/

namespace Sys2Proof.Machine

/-- The row lines' select: `MAR[15:8]` (R61). -/
def gridRow (mar : Word) : BitVec 8 := mar.extractLsb' 8 8

/-- The column lines' select: `MAR[7:0]` (R61). -/
def gridColumn (mar : Word) : BitVec 8 := mar.extractLsb' 0 8

/-- The row line and the column line of the cell at address `n` are both 1 (R61, spec/41_functional_units.md R163). -/
def cellSelected (mar : Word) (n : Nat) : Bool :=
  gateAnd (decoder256Line (gridRow mar) (n / 256)) (decoder256Line (gridColumn mar) (n % 256))

/-- Cell `n` drives the main bus (R63). -/
def cellDrives (enable : Bool) (mar : Word) (n : Nat) : Bool := gateAnd (cellSelected mar n) enable

/-- The word cell `n` holds after a phase (R64). -/
def cellNext (set : Bool) (mar bus : Word) (n : Nat) (q : Word) : Word :=
  wordRegisterNext q bus (gateAnd (cellSelected mar n) set)

end Sys2Proof.Machine
end

