-- ==== Sys2Proof/Machine/HostCalls.lean ====
section
/-! DEFINITION. The host's calls beside `Step()` (spec/60_exceptions.md R362): build, load an image, attach a
peripheral, write state. Reading state is reading a field of `State`. No step makes any of them. -/

namespace Sys2Proof.Machine

/-- The parameters `IAR0` and `INIT`: the entry point and a draw for every register the spec leaves unspecified at
power-on (spec/10_state.md R47, decisions D14 and D15). -/
structure PowerOn where
  iar0 : Word
  regs : RegFile
  ir : Word
  mar : Word
  acc : Word
  tmp : Word
  flags : Flags
  ct : Bool
  deriving DecidableEq, Repr

/-- The reference entry point and `INIT = zero` (R47). -/
def PowerOn.reference : PowerOn where
  iar0 := Config.iar0
  regs := ⟨0, 0, 0, 0⟩
  ir := 0
  mar := 0
  acc := 0
  tmp := 0
  flags := ⟨false, false, false, false⟩
  ct := false

/-- build: the state of R47. A draw for a memory word is made by loading it with an image. -/
def build (p : PowerOn) : State where
  regs := p.regs
  iar := p.iar0
  ir := p.ir
  mar := p.mar
  acc := p.acc
  tmp := p.tmp
  flags := p.flags
  ct := p.ct
  mem := []
  phase := .reset
  clk := false
  env := ⟨[], [], 0⟩

/-- An image of words at consecutive addresses from a base (spec/20_memory.md R81, spec/70_reset_and_hazards.md R383).
The spec does not say what comes after 0xFFFF: here the addresses go on at 0x0000. DESIGN CHOICE, log 21. -/
def imageAt (base : Word) : List Word → List (Word × Word)
  | [] => []
  | w :: t => (base, w) :: imageAt (base + 1) t

/-- Memory with an image's words written into it, in order, so the later of two words for one address stays: log 21. -/
def Memory.withImage (m : Memory) : List (Word × Word) → Memory
  | [] => m
  | (a, w) :: t => Memory.withImage (m.write a.toNat w) t

/-- load image: before the first `Step()` (R362). That is where the stepper is in RESET, whatever the host has written to
it: DESIGN CHOICE, log 22. -/
def loadImage (image : List (Word × Word)) (s : State) : Host.Outcome State Fault Refusal :=
  if s.phase = .reset then .next { s with mem := s.mem.withImage image }
  else .refused (.imageAfterFirstStep s.phase)

/-- attach peripheral: before the first `Step()` (R362), decided as for `loadImage`: DESIGN CHOICE, log 22. At power-on no
peripheral is active (spec/10_state.md R47). -/
def attach (p : Peripheral) (s : State) : Host.Outcome State Fault Refusal :=
  if s.phase = .reset then
    .next (s.setEnv { s.env with peripherals := s.env.peripherals ++ [{ p with active := false }] })
  else .refused (.attachAfterFirstStep s.phase)

/-- A host's write of one piece of the state tuple (R362, spec/10_state.md R49). -/
inductive HostWrite where
  | reg (r : Reg) (v : Word)
  | iar (v : Word)
  | ir (v : Word)
  | mar (v : Word)
  | acc (v : Word)
  | tmp (v : Word)
  | flags (f : Flags)
  | ct (b : Bool)
  | word (addr v : Word)
  | phase (p : Phase)
  | clk (b : Bool)
  deriving DecidableEq, Repr

/-- What a host's write does. The spec sets no limit to the phase a host may write: here it is any, RESET after the first
`Step()` too, which lets `loadImage` and `attach` be called again, and P1 to P5, inside an instruction: DESIGN CHOICE,
log 22. -/
def HostWrite.apply (w : HostWrite) (s : State) : State :=
  match w with
  | .reg r v => s.setReg r v
  | .iar v => s.setIar v
  | .ir v => s.setIr v
  | .mar v => s.setMar v
  | .acc v => s.setAcc v
  | .tmp v => s.setTmp v
  | .flags f => s.setFlags f
  | .ct b => s.setCt b
  | .word addr v => s.store addr v
  | .phase p => s.setPhase p
  | .clk b => { s with clk := b }

/-- write state: at an instruction boundary; between two phases of one instruction it is outside the spec and refused
(R362, K8). Power-on counts as a boundary: log 17. -/
def hostWrite (w : HostWrite) (s : State) : Host.Outcome State Fault Refusal :=
  if s.phase.isBoundary then .next (w.apply s) else .refused (.hostWriteInsideInstruction s.phase)

end Sys2Proof.Machine
end

