-- ==== Sys2Proof/Machine/PhaseTable.lean ====
section
/-! DEFINITION. The control network as the phase table (spec/43_sequencer.md R226). The machine uses the equations,
`controlLines`; a claim says that they are the same function, as R226 does. -/

namespace Sys2Proof.Machine

/-- A row marked "—": no line is asserted, the ALU is at ADD with carry-in 0 (R222). -/
def Control.idle : Control where
  bus1 := false
  iarEn := false
  ramEn := false
  accEn := false
  regAEn := false
  regBEn := false
  ioClockEnable := false
  marSet := false
  irSet := false
  iarSet := false
  accSet := false
  tmpSet := false
  ctSet := false
  flagsSet := false
  ramSet := false
  regBSet := false
  ioClockSet := false
  aluOp := .add
  cin := false

/-- The rows of P4. -/
def tableP4 (ir : Word) : Control :=
  if isAlu ir then { Control.idle with regBEn := true, tmpSet := true, ctSet := true }
  else
    match fieldClass ir with
    | .ld => { Control.idle with regAEn := true, marSet := true }
    | .st => { Control.idle with regAEn := true, marSet := true }
    | .data => { Control.idle with iarEn := true, marSet := true, accSet := true, bus1 := true }
    | .jr => { Control.idle with regBEn := true, iarSet := true }
    | .jmp => { Control.idle with iarEn := true, marSet := true }
    | .jmpif => { Control.idle with iarEn := true, marSet := true, accSet := true, bus1 := true }
    | .clf => { Control.idle with flagsSet := true, bus1 := true }
    | .io => if bit ir 3 then { Control.idle with regBEn := true, ioClockSet := true } else Control.idle

/-- The rows of P5. -/
def tableP5 (ir : Word) (ct : Bool) : Control :=
  if isAlu ir then
    { Control.idle with regAEn := true, accSet := true, flagsSet := true, aluOp := fieldOp ir, cin := ct }
  else
    match fieldClass ir with
    | .ld => { Control.idle with ramEn := true, regBSet := true }
    | .st => { Control.idle with regBEn := true, ramSet := true }
    | .data => { Control.idle with ramEn := true, regBSet := true }
    | .jr => Control.idle
    | .jmp => { Control.idle with ramEn := true, iarSet := true }
    | .jmpif => { Control.idle with accEn := true, iarSet := true }
    | .clf => Control.idle
    | .io => if bit ir 3 then Control.idle else { Control.idle with ioClockEnable := true, regBSet := true }

/-- The rows of P6. -/
def tableP6 (ir : Word) (flags : Flags) : Control :=
  if isAlu ir then
    if fieldOp ir = .cmp then Control.idle else { Control.idle with accEn := true, regBSet := true }
  else
    match fieldClass ir with
    | .ld => Control.idle
    | .st => Control.idle
    | .data => { Control.idle with accEn := true, iarSet := true }
    | .jr => Control.idle
    | .jmp => Control.idle
    | .jmpif => { Control.idle with ramEn := true, iarSet := flags.cond (fieldMask ir) }
    | .clf => Control.idle
    | .io => Control.idle

/-- The phase table (R226). -/
def phaseTable (p : Phase) (ir : Word) (flags : Flags) (ct : Bool) : Control :=
  match p with
  | .reset => Control.idle
  | .p1 => { Control.idle with iarEn := true, marSet := true, accSet := true, bus1 := true }
  | .p2 => { Control.idle with ramEn := true, irSet := true }
  | .p3 => { Control.idle with accEn := true, iarSet := true }
  | .p4 => tableP4 ir
  | .p5 => tableP5 ir ct
  | .p6 => tableP6 ir flags

end Sys2Proof.Machine
end

