-- ==== Sys2Proof/Safety.lean ====
section
/-! DEFINITION. The terms claims are stated in: what an instruction may write, and the invariants. -/

namespace Sys2Proof

/-- The register an instruction writes: always the one its b field names (spec/10_state.md R32). -/
def Instr.dest : Instr → Option Reg
  | .ld _ b => some b
  | .st _ _ => none
  | .data b _ => some b
  | .jr _ => none
  | .jmp _ => none
  | .jmpif _ _ => none
  | .clf => none
  | .inp _ b => some b
  | .outp _ _ => none
  | .add _ b => some b
  | .shr _ b => some b
  | .shl _ b => some b
  | .not _ b => some b
  | .and _ b => some b
  | .or _ b => some b
  | .xor _ b => some b
  | .cmp _ _ => none
  | .dataUndef _ b _ => some b
  | .jrUndef _ _ => none
  | .jmpUndef _ _ => none
  | .jmpifEmpty _ => none
  | .clfUndef _ => none

/-- The eight ALU instructions (spec/30_encoding.md R92). -/
def Instr.isAluInstr : Instr → Bool
  | .ld _ _ => false
  | .st _ _ => false
  | .data _ _ => false
  | .jr _ => false
  | .jmp _ => false
  | .jmpif _ _ => false
  | .clf => false
  | .inp _ _ => false
  | .outp _ _ => false
  | .add _ _ => true
  | .shr _ _ => true
  | .shl _ _ => true
  | .not _ _ => true
  | .and _ _ => true
  | .or _ _ => true
  | .xor _ _ => true
  | .cmp _ _ => true
  | .dataUndef _ _ _ => false
  | .jrUndef _ _ => false
  | .jmpUndef _ _ => false
  | .jmpifEmpty _ => false
  | .clfUndef _ => false

/-- CLF and the patterns that execute as CLF (spec/30_encoding.md R98). -/
def Instr.isClf (i : Instr) : Bool := i == .clf || (match i with | .clfUndef _ => true | _ => false)

/-- DATA and JMPIF and the patterns that execute as them: the instructions that step over a second word through ACC
(spec/43_sequencer.md R226). -/
def Instr.stepsOver (i : Instr) : Bool :=
  match i with
  | .data _ _ => true
  | .dataUndef _ _ _ => true
  | .jmpif _ _ => true
  | .jmpifEmpty _ => true
  | _ => false

/-- JMP and the patterns that execute as JMP. -/
def Instr.isJmp (i : Instr) : Bool :=
  match i with
  | .jmp _ => true
  | .jmpUndef _ _ => true
  | _ => false

/-- JR and the patterns that execute as JR. -/
def Instr.isJr (i : Instr) : Bool :=
  match i with
  | .jr _ => true
  | .jrUndef _ _ => true
  | _ => false

/-- JMPIF with a flag to test. -/
def Instr.isJmpif (i : Instr) : Bool :=
  match i with
  | .jmpif _ _ => true
  | _ => false

namespace Machine

/-- The address an instruction stores to, computed as ST's meaning computes it (spec/44_memory_instructions.md R261). -/
def storeAddress (i : Instr) (s : State) : Option Word :=
  match i with
  | .st a _ => some (operandAddress s a)
  | _ => none

/-- How many attached peripherals are active. -/
def Env.activeCount (e : Env) : Nat := (e.peripherals.filter (·.active)).length

/-- Every peripheral is `exclusive`, no two share an address, and at most one is active: the platform keeps the contract
of spec/47_flags_and_io.md R336 by construction. -/
abbrev Env.soleSelection (e : Env) : Prop :=
  (∀ p ∈ e.peripherals, p.policy = .exclusive) ∧ (e.peripherals.map (·.address)).Nodup ∧ e.activeCount ≤ 1

/-- The invariant of every step: memory is in its canonical form. -/
abbrev State.Inv (s : State) : Prop := s.mem.wf = true

/-- A state with other contents in the registers that are written before they are read (spec/10_state.md R48). -/
def State.withInternals (s : State) (ir mar acc tmp : Word) (ct : Bool) : State :=
  { s with ir := ir, mar := mar, acc := acc, tmp := tmp, ct := ct }

/-- The host's second stopping condition: the machine is at a boundary and IAR is at `done: JMP done`
(spec/60_exceptions.md R364). -/
def State.atSelfJump (s : State) : Bool := s.phase.isBoundary && nextInstr s == .jmp s.iar

end Machine

end Sys2Proof
end

