-- ==== Sys2Proof/Certificates/Slice0/Obligations.lean ====
section
/-! DEFINITION. The statements for the provers. OBLIGATIONS.json lists them. `fetch s` is the state P1 to P3 leave
(`Sys2Proof.Machine.fetch_eq` spells it out); a meaning is P4 to P6 on it, where IAR is A + 1. Where a statement says that
nothing else changes, that the peripherals do not either is the model's: log 20. -/

open Sys2Proof Sys2Proof.Machine

/-! ### Encoding -/

/-- Decoding the words of a well-formed instruction gives that instruction back and leaves the words after it
(spec/30_encoding.md R97, R98): no operand bit of an encoding is dropped. -/
def Obligations.DecodeOfEncodeIsIdentity : Prop :=
  ∀ (i : Instr) (rest : List Word), i.wellFormed = true → decode (encode i ++ rest) = .ok (i, rest)

/-- The other direction: what the decoder reads is well formed, and encoding it gives the words read, but that the
opcode word's high byte, which is ignored (spec/30_encoding.md R90), is 0. -/
def Obligations.EncodeOfDecodeClearsOnlyTheHighByte : Prop :=
  ∀ (w : Word) (rest rest' : List Word) (i : Instr), decode (w :: rest) = .ok (i, rest') →
    i.wellFormed = true ∧ encode i ++ rest' = (w &&& 0x00FF) :: rest

/-- Two opcode words with the same low byte are the same instruction, of the same length (spec/30_encoding.md R90). -/
def Obligations.HighByteOfOpcodeWordIsIgnored : Prop :=
  ∀ w v second : Word, w &&& 0x00FF = v &&& 0x00FF →
    instrOf w second = instrOf v second ∧ isTwoWord w = isTwoWord v

/-- Every opcode word followed by another word decodes, so no word traps (spec/30_encoding.md R98); it takes two words
exactly when IR[7] = 0 and the class IR[6:4] is 010, 100 or 101, that is when its second hex digit from the right is
2, 4 or 5, and one otherwise (R99). -/
def Obligations.EveryWordDecodesToOneOrTwoWords : Prop :=
  ∀ (w second : Word) (rest : List Word), ∃ i : Instr,
    decode (w :: second :: rest) =
      .ok (i, if w.toNat / 16 % 16 = 2 ∨ w.toNat / 16 % 16 = 4 ∨ w.toNat / 16 % 16 = 5 then rest else second :: rest)

/-- The decoder reads every opcode word as an instruction of the first row of spec/opcode_table.json whose mask and value
it matches, the rows ordered as in `opcodeTable` (log 14). -/
def Obligations.DecoderFollowsTheOpcodeTable : Prop :=
  ∀ w second : Word, tableMnemonic w = some (instrOf w second).mnemonic

/-- The canonical words of the 17 instructions, as numbers, in the layout of spec/30_encoding.md R97: the opcode byte is
a base, plus 4 times the a field and the b field, or plus 4 times `da` and the b field, or plus the flag mask CAEZ; the
second word is the operand whole. -/
def Obligations.EncodingsAreTheCanonicalOpcodes : Prop :=
  ∀ (a b : Reg) (da : IoSel) (mask : FlagMask) (v : Word) (n m : Nat),
    n = 4 * a.code.toNat + b.code.toNat → m = 4 * da.code.toNat + b.code.toNat →
    encode (.ld a b) = [BitVec.ofNat 16 (0x00 + n)] ∧
    encode (.st a b) = [BitVec.ofNat 16 (0x10 + n)] ∧
    encode (.data b v) = [BitVec.ofNat 16 (0x20 + b.code.toNat), v] ∧
    encode (.jr b) = [BitVec.ofNat 16 (0x30 + b.code.toNat)] ∧
    encode (.jmp v) = [0x40, v] ∧
    encode (.jmpif mask v) =
      [BitVec.ofNat 16 (0x50 + 8 * mask.c.toNat + 4 * mask.a.toNat + 2 * mask.e.toNat + mask.z.toNat), v] ∧
    encode .clf = [0x60] ∧
    encode (.inp da b) = [BitVec.ofNat 16 (0x70 + m)] ∧
    encode (.outp da b) = [BitVec.ofNat 16 (0x78 + m)] ∧
    encode (.add a b) = [BitVec.ofNat 16 (0x80 + n)] ∧
    encode (.shr a b) = [BitVec.ofNat 16 (0x90 + n)] ∧
    encode (.shl a b) = [BitVec.ofNat 16 (0xA0 + n)] ∧
    encode (.not a b) = [BitVec.ofNat 16 (0xB0 + n)] ∧
    encode (.and a b) = [BitVec.ofNat 16 (0xC0 + n)] ∧
    encode (.or a b) = [BitVec.ofNat 16 (0xD0 + n)] ∧
    encode (.xor a b) = [BitVec.ofNat 16 (0xE0 + n)] ∧
    encode (.cmp a b) = [BitVec.ofNat 16 (0xF0 + n)]

/-- One word of each row of the opcode table, written out from spec/30_encoding.md R97 and R98, decodes to the
instruction it stands for. -/
def Obligations.WrittenWordsDecodeAsTheSpecSays : Prop :=
  decode [0x0001] = .ok (.ld .r0 .r1, []) ∧
  decode [0x001B] = .ok (.st .r2 .r3, []) ∧
  decode [0x0022, 0x1234] = .ok (.data .r2 0x1234, []) ∧
  decode [0x0033] = .ok (.jr .r3, []) ∧
  decode [0x0040, 0x0700] = .ok (.jmp 0x0700, []) ∧
  decode [0x005A, 0x0700] = .ok (.jmpif ⟨true, false, true, false⟩ 0x0700, []) ∧
  decode [0x0060] = .ok (.clf, []) ∧
  decode [0x0076] = .ok (.inp .addr .r2, []) ∧
  decode [0x007B] = .ok (.outp .data .r3, []) ∧
  decode [0x1286] = .ok (.add .r1 .r2, []) ∧
  decode [0x0091] = .ok (.shr .r0 .r1, []) ∧
  decode [0x00A5] = .ok (.shl .r1 .r1, []) ∧
  decode [0x00B1] = .ok (.not .r0 .r1, []) ∧
  decode [0x00C1] = .ok (.and .r0 .r1, []) ∧
  decode [0x00D1] = .ok (.or .r0 .r1, []) ∧
  decode [0x00E6] = .ok (.xor .r1 .r2, []) ∧
  decode [0x00FB] = .ok (.cmp .r2 .r3, []) ∧
  decode [0x002D, 0x0042] = .ok (.dataUndef 3 .r1 0x0042, []) ∧
  decode [0x0037] = .ok (.jrUndef 1 .r3, []) ∧
  decode [0x0044, 0x0700] = .ok (.jmpUndef 4 0x0700, []) ∧
  decode [0x0050, 0x0700] = .ok (.jmpifEmpty 0x0700, []) ∧
  decode [0x0064] = .ok (.clfUndef 4, [])

/-! ### Storage cells -/

/-- NAND and the gates built from it have the truth tables of spec/40_storage_cells.md R121 and R122. -/
def Obligations.GatesMeetTheirTruthTables : Prop :=
  ∀ x y : Bool,
    gateNand x y = !(x && y) ∧ gateNot x = !x ∧ gateAnd x y = (x && y) ∧ gateOr x y = (x || y) ∧
    gateNor x y = !(x || y) ∧ gateXor x y = (x != y)

/-- The latch cell (spec/40_storage_cells.md R126 to R128): from a cell that holds `q`, one external update, which is
two passes of the four gates, leaves a cell that holds the input if it is selected and `q` if not; one pass is wrong
exactly for q = 1, s = 1, i = 0; and from any gates at all, a selected update leaves a cell that holds the input. -/
def Obligations.LatchCellSettlesInTwoPasses : Prop :=
  (∀ (g : LatchGates) (q i s : Bool), g.holds q = true →
    (g.update i s).holds (latchNext q i s) = true ∧
    ((g.pass i s).g2 = latchNext q i s ↔ ¬(q = true ∧ s = true ∧ i = false))) ∧
  (∀ (g : LatchGates) (i : Bool), (g.update i true).holds i = true)

/-- A word register latches its input while Set is asserted and holds its word otherwise (spec/40_storage_cells.md
R130); its enabler lets the word through while Enable is asserted and drives 0 otherwise (R131). -/
def Obligations.WordRegisterLatchesAndEnables : Prop :=
  ∀ (q input : Word) (set enable : Bool),
    wordRegisterNext q input set = (if set then input else q) ∧
    enabler q enable = (if enable then q else 0)

/-! ### Functional units -/

/-- The ripple adder gives the sum modulo 2^16 and the carry-out of the exact sum (spec/41_functional_units.md R151). -/
def Obligations.RippleAdderIsExact : Prop :=
  ∀ (a b : Word) (cin : Bool),
    (rippleSum a b cin).toNat = (a.toNat + b.toNat + cin.toNat) % 65536 ∧
    rippleCarryOut a b cin = decide (65536 ≤ a.toNat + b.toNat + cin.toNat)

/-- The ripple comparator's 16 stages, bit 15 first, from equal = 1 and larger = 0, compare unsigned: equal exactly when
a = b, A-larger exactly when a > b, and both 0 when a < b (spec/41_functional_units.md R153). -/
def Obligations.RippleComparatorIsExact : Prop :=
  ∀ a b : Word,
    (rippleCompare a b).equal = decide (a = b) ∧
    (rippleCompare a b).larger = decide (b.toNat < a.toNat) ∧
    (a.toNat < b.toNat → rippleCompare a b = ⟨false, false⟩)

/-- The shifters move every bit one place, put the shift-in at the end that is freed, and give the bit that falls out
(spec/41_functional_units.md R154, R155): as wires and as arithmetic. -/
def Obligations.ShiftersAreExact : Prop :=
  ∀ (x : Word) (shiftIn : Bool),
    (leftShift x shiftIn).getLsbD 0 = shiftIn ∧
    (∀ k, 1 ≤ k → k ≤ 15 → (leftShift x shiftIn).getLsbD k = x.getLsbD (k - 1)) ∧
    leftShift x shiftIn = ((x <<< 1) ||| bitWord shiftIn) ∧
    leftShiftOut x = x.getLsbD 15 ∧
    (rightShift x shiftIn).getLsbD 15 = shiftIn ∧
    (∀ k, k ≤ 14 → (rightShift x shiftIn).getLsbD k = x.getLsbD (k + 1)) ∧
    rightShift x shiftIn = ((x >>> 1) ||| (bitWord shiftIn <<< 15)) ∧
    rightShiftOut x = x.getLsbD 0

/-- The zero detector is 1 exactly for 0x0000 (spec/41_functional_units.md R157), and the combiners work bit by bit
(R158). -/
def Obligations.ZeroDetectorAndCombinersAreExact : Prop :=
  ∀ a b : Word,
    (zeroDetect a = true ↔ a = 0) ∧
    combineAnd a b = a &&& b ∧ combineOr a b = a ||| b ∧ combineXor a b = a ^^^ b ∧ combineNot a = ~~~a

/-- A k-to-2^k decoder asserts exactly the line whose index is the binary value of its input, and its accessor gives that
index (spec/41_functional_units.md R160). -/
def Obligations.DecoderIsOneHot : Prop :=
  ∀ (k : Nat) (sel : BitVec k),
    (∀ j, j < 2 ^ k → (decoderLine sel j = true ↔ j = sel.toNat)) ∧ decoderIndex sel = sel.toNat

/-- The hierarchical 8-to-256 decoder equals the flat one (spec/41_functional_units.md R162). -/
def Obligations.HierarchicalDecoderIsFlat : Prop :=
  ∀ (sel : BitVec 8) (n : Nat), n < 256 → decoder256Line sel n = decoderLine sel n

/-- Exactly one cell of the memory grid is selected for every MAR value, the one at address MAR, and it alone drives the
bus, while Enable is asserted (spec/41_functional_units.md R163, spec/20_memory.md R61 to R63). -/
def Obligations.GridSelectsExactlyTheAddressedCell : Prop :=
  ∀ (mar : Word) (n : Nat), n < 65536 →
    (cellSelected mar n = true ↔ n = mar.toNat) ∧
    ∀ enable : Bool, (cellDrives enable mar n = true ↔ enable = true ∧ n = mar.toNat)

/-- Writing memory by address is what the grid's cells do: while Set is asserted the cell whose row and column lines are
both active latches the bus, and no other cell changes (spec/20_memory.md R64). -/
def Obligations.MemoryWriteIsTheGridsWrite : Prop :=
  ∀ (m : Memory) (mar bus : Word) (set : Bool) (n : Nat), n < 65536 →
    (if set then m.write mar.toNat bus else m).read n = cellNext set mar bus n (m.read n)

/-! ### ALU -/

/-- The ALU built from the units, the one-hot operation lines, the enablers on the shared result bus, the gated carry,
the comparator and the zero detector equals the function the spec gives, for every operation and every input
(spec/42_alu.md R192 to R198). -/
def Obligations.AluStructureComputesItsFunction : Prop :=
  ∀ (op : AluOp) (a b : Word) (cin : Bool), aluGates op.code a b cin = alu op a b cin

/-- The ALU function, operation by operation, as arithmetic (spec/42_alu.md R193). -/
def Obligations.AluFunctionIsTheSpecsTable : Prop :=
  ∀ (a b : Word) (cin : Bool),
    ((alu .add a b cin).out.toNat = (a.toNat + b.toNat + cin.toNat) % 65536 ∧
      (alu .add a b cin).flags.c = decide (65536 ≤ a.toNat + b.toNat + cin.toNat)) ∧
    ((alu .shr a b cin).out.toNat = a.toNat / 2 + 32768 * cin.toNat ∧
      (alu .shr a b cin).flags.c = decide (a.toNat % 2 = 1)) ∧
    ((alu .shl a b cin).out.toNat = 2 * a.toNat % 65536 + cin.toNat ∧
      (alu .shl a b cin).flags.c = decide (32768 ≤ a.toNat)) ∧
    ((alu .not a b cin).out.toNat = 65535 - a.toNat ∧ (alu .not a b cin).flags.c = false) ∧
    ((∀ k, (alu .and a b cin).out.getLsbD k = (a.getLsbD k && b.getLsbD k)) ∧ (alu .and a b cin).flags.c = false) ∧
    ((∀ k, (alu .or a b cin).out.getLsbD k = (a.getLsbD k || b.getLsbD k)) ∧ (alu .or a b cin).flags.c = false) ∧
    ((∀ k, (alu .xor a b cin).out.getLsbD k = (a.getLsbD k != b.getLsbD k)) ∧ (alu .xor a b cin).flags.c = false) ∧
    ((alu .cmp a b cin).out = 0 ∧ (alu .cmp a b cin).flags.c = false) ∧
    ∀ op : AluOp,
      ((alu op a b cin).flags.a = true ↔ b.toNat < a.toNat) ∧
      ((alu op a b cin).flags.e = true ↔ a = b) ∧
      ((alu op a b cin).flags.z = true ↔ (alu op a b cin).out.toNat = 0)

/-- Which inputs an operation reads: NOT's output depends on neither `b` nor `cin`, and its A and E flags still compare
`a` with `b`; AND, OR, XOR and CMP do not depend on `cin`; the output and carry of SHR and SHL do not depend on `b`
(spec/42_alu.md R199). -/
def Obligations.AluOperandDependence : Prop :=
  ∀ (a b b' : Word) (cin cin' : Bool),
    ((alu .not a b cin).out = (alu .not a b' cin').out ∧
      (alu .not a b cin).flags.a = decide (b.toNat < a.toNat) ∧ (alu .not a b cin).flags.e = decide (a = b)) ∧
    (alu .and a b cin = alu .and a b cin' ∧ alu .or a b cin = alu .or a b cin' ∧
      alu .xor a b cin = alu .xor a b cin' ∧ alu .cmp a b cin = alu .cmp a b cin') ∧
    ((alu .shr a b cin).out = (alu .shr a b' cin).out ∧ (alu .shr a b cin).flags.c = (alu .shr a b' cin).flags.c) ∧
    ((alu .shl a b cin).out = (alu .shl a b' cin).out ∧ (alu .shl a b cin).flags.c = (alu .shl a b' cin).flags.c)

/-- The flags bus has carry in bit 0, A-larger in bit 1, equal in bit 2 and zero in bit 3; a flags register stands for
exactly one such value; and FLAGS latches exactly the value on the bus while its Set line is asserted
(spec/42_alu.md R198). -/
def Obligations.FlagsBusLayout : Prop :=
  (∀ f : Flags, f.toBits.getLsbD 0 = f.c ∧ f.toBits.getLsbD 1 = f.a ∧ f.toBits.getLsbD 2 = f.e ∧
    f.toBits.getLsbD 3 = f.z ∧ Flags.ofBits f.toBits = f) ∧
  (∀ v : BitVec 4, (Flags.ofBits v).toBits = v) ∧
  (∀ (c : Control) (bus : Word) (s : State),
    (latch c bus s).flags =
      if c.flagsSet then (alu c.aluOp bus (busOne c.bus1 s.tmp) c.cin).flags else s.flags)

/-! ### Stepper and control network -/

/-- After n ≥ 1 pulses from RESET exactly one line is active, that of P(((n - 1) mod 6) + 1) (spec/43_sequencer.md R212
to R214). -/
def Obligations.StepperPhaseAfterPulses : Prop :=
  ∀ n : Nat,
    Phase.pulses (n + 1) .reset = Phase.ofIndex n ∧
    (Phase.pulses (n + 1) .reset).lines.count true = 1 ∧
    (Phase.pulses (n + 1) .reset).lines[n % 6]? = some true

/-- The equations of the control network and the phase table are the same function (spec/43_sequencer.md R226). -/
def Obligations.ControlEquationsAreThePhaseTable : Prop :=
  ∀ (p : Phase) (ir : Word) (flags : Flags) (ct : Bool), controlLines p ir flags ct = phaseTable p ir flags ct

/-- In every phase at most one component of the core drives the main bus, and none when the peripherals may; and no
component has its Set and its Enable line asserted together, nor is MAR set while memory is accessed
(spec/43_sequencer.md R230, spec/40_storage_cells.md R133, spec/20_memory.md R65). -/
def Obligations.AtMostOneCoreDriver : Prop :=
  ∀ (p : Phase) (s : State),
    (coreDrivers (controlLines p s.ir s.flags s.ct) s).length ≤ 1 ∧
    ((controlLines p s.ir s.flags s.ct).ioClockEnable = true →
      coreDrivers (controlLines p s.ir s.flags s.ct) s = []) ∧
    (∀ r : Reg, ¬((controlLines p s.ir s.flags s.ct).regEn s.ir r = true ∧
      (controlLines p s.ir s.flags s.ct).regSet s.ir r = true)) ∧
    (∀ c, c = controlLines p s.ir s.flags s.ct →
      ¬(c.iarEn = true ∧ c.iarSet = true) ∧ ¬(c.accEn = true ∧ c.accSet = true) ∧
      ¬(c.ramEn = true ∧ c.ramSet = true) ∧ ¬(c.marSet = true ∧ (c.ramEn = true ∨ c.ramSet = true)))

/-- The I/O bus lines (spec/43_sequencer.md R225, spec/47_flags_and_io.md R333): ClockSet is asserted exactly at P4 of
OUT and ClockEnable exactly at P5 of IN, as the control network asserts them; Mode and DataOrAddress follow IR[3] and
IR[2] in every phase; before the first phase all four are 0 (decision D19). -/
def Obligations.IoLinesFollowPhaseAndInstruction : Prop :=
  ∀ (p : Phase) (ir : Word) (flags : Flags) (ct : Bool),
    (ioLines p ir).clockSet = (controlLines p ir flags ct).ioClockSet ∧
    (ioLines p ir).clockEnable = (controlLines p ir flags ct).ioClockEnable ∧
    ((ioLines p ir).clockSet = true ↔ p = .p4 ∧ ∃ da b, ∀ second, instrOf ir second = .outp da b) ∧
    ((ioLines p ir).clockEnable = true ↔ p = .p5 ∧ ∃ da b, ∀ second, instrOf ir second = .inp da b) ∧
    (p ≠ .reset → (ioLines p ir).mode = ir.getLsbD 3 ∧ (ioLines p ir).dataOrAddress = ir.getLsbD 2) ∧
    (p = .reset → ioLines p ir = ⟨false, false, false, false⟩)

/-- What one `Step()` may write, and when (spec/10_state.md R33, R36 to R38, R40 and R42, spec/43_sequencer.md R212, R219,
R226 and R232, spec/47_flags_and_io.md R334, spec/20_memory.md R64): the general registers only at P5 and P6; IAR only
from P3 on; IR only at P2; MAR only at P1 and P4; ACC only at P1, at P4 of DATA and JMPIF and at P5 of an ALU instruction;
TMP and CT only at P4 of an ALU instruction; FLAGS only at P4 of CLF and P5 of an ALU instruction; memory only at P5 of
ST; the stepper moves to the next phase and `clk` is as before. The environment, where the peripherals are, changes only
at P4 of OUT and P5 of IN: that is the model's (log 20), since R232 lets a peripheral's own state change at any
`Update()`. -/
def Obligations.PhaseStepWritesOnlyInItsPhases : Prop :=
  ∀ s t : State, phaseStep s = .next t →
    t.phase = s.phase.next ∧ t.clk = s.clk ∧
    (t.regs ≠ s.regs → t.phase = .p5 ∨ t.phase = .p6) ∧
    (t.iar ≠ s.iar → t.phase ≠ .p1 ∧ t.phase ≠ .p2) ∧
    (t.ir ≠ s.ir → t.phase = .p2) ∧
    (t.mar ≠ s.mar → t.phase = .p1 ∨ t.phase = .p4) ∧
    (t.acc ≠ s.acc → t.phase = .p1 ∨
      (t.phase = .p4 ∧ isAlu s.ir = false ∧ (fieldClass s.ir = .data ∨ fieldClass s.ir = .jmpif)) ∨
      (t.phase = .p5 ∧ isAlu s.ir = true)) ∧
    (t.tmp ≠ s.tmp ∨ t.ct ≠ s.ct → t.phase = .p4 ∧ isAlu s.ir = true) ∧
    (t.flags ≠ s.flags → (t.phase = .p4 ∧ isAlu s.ir = false ∧ fieldClass s.ir = .clf) ∨
      (t.phase = .p5 ∧ isAlu s.ir = true)) ∧
    (t.mem ≠ s.mem → t.phase = .p5 ∧ isAlu s.ir = false ∧ fieldClass s.ir = .st) ∧
    (t.env ≠ s.env → isAlu s.ir = false ∧ fieldClass s.ir = .io ∧
      ((t.phase = .p4 ∧ s.ir.getLsbD 3 = true) ∨ (t.phase = .p5 ∧ s.ir.getLsbD 3 = false)))

/-- A `Step()` completes in every state, but at P5 of an IN with two or more active peripherals, where it faults
`MultipleDrivers` (spec/43_sequencer.md R230, spec/60_exceptions.md R350); the fault is the model's choice, log 15, decision
D18. In each of those states it does fault. It never refuses. -/
def Obligations.PhaseStepFaultsOnlyAtInOfTwoPeripherals : Prop :=
  ∀ s : State,
    ((∃ t, phaseStep s = .next t) ∨
      (s.phase = .p4 ∧ isAlu s.ir = false ∧ fieldClass s.ir = .io ∧ s.ir.getLsbD 3 = false ∧ 2 ≤ s.env.activeCount ∧
        phaseStep s = .fault (.multipleDrivers .p5 s.ir))) ∧
    (s.phase = .p4 → isAlu s.ir = false → fieldClass s.ir = .io → s.ir.getLsbD 3 = false → 2 ≤ s.env.activeCount →
      phaseStep s = .fault (.multipleDrivers .p5 s.ir))

/-! ### Steps -/

/-- HEADLINE. An instruction is the six phases P1 to P6: from every state at an instruction boundary, with any
peripherals, running the decoded instruction's meaning gives exactly what six phase transitions give, the stop
included; and it ends in P6 (spec/43_sequencer.md R228). -/
def Obligations.StepIsSixPhaseTransitions : Prop :=
  ∀ s : State, s.phase.isBoundary = true →
    step s = phaseSteps 6 s ∧ ∀ t, step s = .next t → t.phase = .p6

/-- A host that stops inside an instruction leaves it partly executed, and going on completes the same instruction:
after k of the six phases, a step from there gives what the step from the boundary gives (spec/43_sequencer.md R231). -/
def Obligations.ResumingCompletesTheSameInstruction : Prop :=
  ∀ (s u : State) (k : Nat), s.phase.isBoundary = true → 1 ≤ k → k ≤ 5 → phaseSteps k s = .next u →
    u.phase.isBoundary = false ∧ step u = step s

/-- At a boundary, when the words at IAR decode to an instruction, the step is that instruction's meaning on the state
the fetch leaves: MAR = A, ACC = A + 1, IR = the word, IAR = A + 1, phase P3 (spec/43_sequencer.md R227, R228). -/
def Obligations.StepRunsTheDecodedInstruction : Prop :=
  ∀ (s : State) (i : Instr) (rest : List Word), s.phase.isBoundary = true →
    decode [s.load s.iar, s.load (s.iar + 1)] = .ok (i, rest) →
    step s =
      exec i { s with mar := s.iar, acc := s.iar + 1, ir := s.load s.iar, iar := s.iar + 1, phase := .p3 }

/-- An instruction that does not jump leaves IAR at A + 1, or at A + 2 if it has two words, modulo 2^16
(spec/10_state.md R33, spec/70_reset_and_hazards.md R391). -/
def Obligations.SequentialInstructionsAdvanceIar : Prop :=
  ∀ (s t : State) (i : Instr) (rest : List Word), s.phase.isBoundary = true →
    decode [s.load s.iar, s.load (s.iar + 1)] = .ok (i, rest) →
    i.isJr = false → i.isJmp = false → i.isJmpif = false → step s = .next t →
    t.iar = s.iar + (if (encode i).length = 2 then 2 else 1)

/-! ### Meanings: results and what they leave alone -/

/-- LD (spec/44_memory_instructions.md R260): MAR takes R[a] and R[b] the word at the old R[a], in every state and for
a = b too; nothing else changes. -/
def Obligations.LdLoadsTheWordAtRa : Prop :=
  ∀ (a b : Reg) (s : State),
    exec (.ld a b) s = .next { s with mar := s.reg a, regs := s.regs.set b (s.load (s.reg a)), phase := .p6 }

/-- ST (spec/44_memory_instructions.md R261): the word at R[a] becomes R[b], every other word of memory reads as before,
MAR takes R[a], and nothing else changes. -/
def Obligations.StStoresRbAndKeepsOtherWords : Prop :=
  ∀ (a b : Reg) (s : State), ∃ t : State,
    exec (.st a b) s = .next t ∧
    storeAddress (.st a b) s = some (s.reg a) ∧
    t.load (s.reg a) = s.reg b ∧
    (∀ addr : Word, storeAddress (.st a b) s ≠ some addr → t.load addr = s.load addr) ∧
    t.mar = s.reg a ∧ t.phase = .p6 ∧
    t.regs = s.regs ∧ t.iar = s.iar ∧ t.ir = s.ir ∧ t.acc = s.acc ∧ t.tmp = s.tmp ∧ t.flags = s.flags ∧ t.ct = s.ct ∧
    t.clk = s.clk ∧ t.env = s.env

/-- DATA (spec/44_memory_instructions.md R262) and the bytes 0x24 to 0x2F, which execute as DATA (spec/30_encoding.md
R98): R[b] takes the literal, MAR the address of the second word, ACC and IAR the one after it, modulo 2^16; nothing
else changes. -/
def Obligations.DataLoadsTheLiteral : Prop :=
  ∀ (ign : BitVec 2) (b : Reg) (lit : Word) (s t : State),
    t = { s with
          regs := s.regs.set b lit, mar := s.iar, acc := s.iar + 1, iar := s.iar + 1, phase := .p6 } →
    exec (.data b lit) s = .next t ∧ exec (.dataUndef ign b lit) s = .next t

/-- ADD (spec/45_alu_instructions.md R281): R[b] takes R[a] + R[b] + C modulo 2^16; C is the carry-out; A and E compare
the old values, unsigned; Z tests the result; ACC, TMP and CT are the result, the old R[b] and the old C (R280);
nothing else changes. -/
def Obligations.AddResultAndFlags : Prop :=
  ∀ (a b : Reg) (s : State) (sum : Nat), sum = (s.reg a).toNat + (s.reg b).toNat + s.flags.c.toNat →
    exec (.add a b) s = .next { s with
      regs := s.regs.set b (BitVec.ofNat 16 sum)
      flags :=
        ⟨decide (65536 ≤ sum), decide ((s.reg b).toNat < (s.reg a).toNat), decide (s.reg a = s.reg b),
          decide (sum % 65536 = 0)⟩
      acc := BitVec.ofNat 16 sum
      tmp := s.reg b
      ct := s.flags.c
      phase := .p6 }

/-- SHR and SHL (spec/45_alu_instructions.md R282, R283): R[b] takes R[a] shifted by one place with the old C at the
freed end; C is the bit shifted out; A and E compare the old values; Z tests the result; the side registers are those
of R280; nothing else changes. -/
def Obligations.ShiftResultsAndFlags : Prop :=
  ∀ (a b : Reg) (s : State),
    (∀ out : Nat, out = (s.reg a).toNat / 2 + 32768 * s.flags.c.toNat →
      exec (.shr a b) s = .next { s with
        regs := s.regs.set b (BitVec.ofNat 16 out)
        flags :=
          ⟨decide ((s.reg a).toNat % 2 = 1), decide ((s.reg b).toNat < (s.reg a).toNat), decide (s.reg a = s.reg b),
            decide (out = 0)⟩
        acc := BitVec.ofNat 16 out
        tmp := s.reg b
        ct := s.flags.c
        phase := .p6 }) ∧
    (∀ out : Nat, out = 2 * (s.reg a).toNat % 65536 + s.flags.c.toNat →
      exec (.shl a b) s = .next { s with
        regs := s.regs.set b (BitVec.ofNat 16 out)
        flags :=
          ⟨decide (32768 ≤ (s.reg a).toNat), decide ((s.reg b).toNat < (s.reg a).toNat), decide (s.reg a = s.reg b),
            decide (out = 0)⟩
        acc := BitVec.ofNat 16 out
        tmp := s.reg b
        ct := s.flags.c
        phase := .p6 })

/-- NOT, AND, OR and XOR (spec/45_alu_instructions.md R284 to R287): R[b] takes the bitwise result, whatever C was; C
becomes 0; A and E compare the old values; Z tests the result; the side registers are those of R280; nothing else
changes. -/
def Obligations.LogicResultsAndFlags : Prop :=
  ∀ (a b : Reg) (s : State) (after : Word → State),
    (∀ out : Word, after out = { s with
      regs := s.regs.set b out
      flags := ⟨false, decide ((s.reg b).toNat < (s.reg a).toNat), decide (s.reg a = s.reg b), decide (out = 0)⟩
      acc := out
      tmp := s.reg b
      ct := s.flags.c
      phase := .p6 }) →
    exec (.not a b) s = .next (after (~~~s.reg a)) ∧
    exec (.and a b) s = .next (after (s.reg a &&& s.reg b)) ∧
    exec (.or a b) s = .next (after (s.reg a ||| s.reg b)) ∧
    exec (.xor a b) s = .next (after (s.reg a ^^^ s.reg b))

/-- CMP (spec/45_alu_instructions.md R288): A and E are the unsigned comparison, C is 0 and Z is 1 whatever the operands;
ACC is 0, TMP and CT are the old R[b] and C; no register and nothing else changes. -/
def Obligations.CmpSetsFlagsOnly : Prop :=
  ∀ (a b : Reg) (s : State),
    exec (.cmp a b) s = .next { s with
      flags := ⟨false, decide ((s.reg b).toNat < (s.reg a).toNat), decide (s.reg a = s.reg b), true⟩
      acc := 0
      tmp := s.reg b
      ct := s.flags.c
      phase := .p6 }

/-- JR and JMP (spec/46_control_transfer.md R310, R311), and the bytes 0x34 to 0x3F and 0x41 to 0x4F, which execute as
them (spec/30_encoding.md R98): JR loads IAR with R[b]; JMP loads IAR with the second word and MAR with its address;
nothing else changes. -/
def Obligations.JumpsLoadIar : Prop :=
  ∀ (s : State),
    (∀ (ign : BitVec 2) (b : Reg),
      exec (.jr b) s = .next { s with iar := s.reg b, phase := .p6 } ∧
      exec (.jrUndef ign b) s = .next { s with iar := s.reg b, phase := .p6 }) ∧
    (∀ (ign : BitVec 4) (addr : Word),
      exec (.jmp addr) s = .next { s with mar := s.iar, iar := addr, phase := .p6 } ∧
      exec (.jmpUndef ign addr) s = .next { s with mar := s.iar, iar := addr, phase := .p6 })

/-- JMPIF (spec/46_control_transfer.md R312): IAR takes the second word if any flag the mask names is set, and the
address after the second word if none is; MAR and ACC are as R312 has them; no flag and nothing else changes. Byte
0x50 (R313) never jumps, whatever the flags. -/
def Obligations.JmpifJumpsOnAnyNamedFlag : Prop :=
  ∀ (mask : FlagMask) (addr : Word) (s : State),
    ((s.flags.c = true ∧ mask.c = true) ∨ (s.flags.a = true ∧ mask.a = true) ∨
        (s.flags.e = true ∧ mask.e = true) ∨ (s.flags.z = true ∧ mask.z = true) →
      exec (.jmpif mask addr) s = .next { s with mar := s.iar, acc := s.iar + 1, iar := addr, phase := .p6 }) ∧
    ((s.flags.c = false ∨ mask.c = false) ∧ (s.flags.a = false ∨ mask.a = false) ∧
        (s.flags.e = false ∨ mask.e = false) ∧ (s.flags.z = false ∨ mask.z = false) →
      exec (.jmpif mask addr) s =
        .next { s with mar := s.iar, acc := s.iar + 1, iar := s.iar + 1, phase := .p6 }) ∧
    exec (.jmpifEmpty addr) s = .next { s with mar := s.iar, acc := s.iar + 1, iar := s.iar + 1, phase := .p6 }

/-- CLF (spec/47_flags_and_io.md R330) and the bytes 0x61 to 0x6F, which execute as CLF (spec/30_encoding.md R98): all
four flags become 0; CT and everything else stay. -/
def Obligations.ClfClearsAllFlags : Prop :=
  ∀ (ign : BitVec 4) (s : State),
    exec .clf s = .next { s with flags := ⟨false, false, false, false⟩, phase := .p6 } ∧
    exec (.clfUndef ign) s = .next { s with flags := ⟨false, false, false, false⟩, phase := .p6 }

/-- IN (spec/47_flags_and_io.md R331, R336): with no active peripheral R[b] becomes 0x0000; with exactly one it becomes
the word that one drives, the input queued for it or, with none queued, a free value (log 9), of which nothing is
said; with more than one the instruction faults, which is the model's choice (log 15, decision D18), where the source has
the last writer win. Every peripheral keeps its address, policy, capture kind, active bit and register, an active one
loses the oldest input queued for it and an inactive one none, the events stay, and the count of draws grows by one
(log 9). That a peripheral's own state changes no further is the model's (log 20), since spec/43_sequencer.md R232 lets
it change at any `Update()`. Nothing else changes. -/
def Obligations.InLatchesThePeripheralsWord : Prop :=
  ∀ (da : IoSel) (b : Reg) (s : State) (env : Env),
    env = { peripherals := s.env.peripherals.map fun p =>
              { address := p.address
                policy := p.policy
                capturesAddr := p.capturesAddr
                active := p.active
                reg := p.reg
                inputs := if p.active then p.inputs.tail else p.inputs }
            events := s.env.events
            draws := s.env.draws + 1 } →
    (s.env.peripherals.filter (·.active) = [] →
      exec (.inp da b) s = .next { s with regs := s.regs.set b 0, env := env, phase := .p6 }) ∧
    (∀ (p : Peripheral) (v : Word) (rest : List Word),
      s.env.peripherals.filter (·.active) = [p] → p.inputs = v :: rest →
      exec (.inp da b) s = .next { s with regs := s.regs.set b v, env := env, phase := .p6 }) ∧
    (∀ p : Peripheral, s.env.peripherals.filter (·.active) = [p] → p.inputs = [] →
      exec (.inp da b) s = .next { s with
        regs := s.regs.set b (Config.periphWord s.env.draws p.address (ioBit da) p.reg)
        env := env
        phase := .p6 }) ∧
    (2 ≤ (s.env.peripherals.filter (·.active)).length → exec (.inp da b) s = .fault (.multipleDrivers .p5 s.ir))

/-- OUT (spec/47_flags_and_io.md R332): the core emits `OutEvent(da, R[b])`, every attached peripheral observes it, and
no core register, flag or memory word changes. -/
def Obligations.OutEmitsTheRegister : Prop :=
  ∀ (da : IoSel) (b : Reg) (s : State),
    exec (.outp da b) s = .next { s with
      env :=
        { peripherals := s.env.peripherals.map (·.observe ⟨da, s.reg b⟩)
          events := s.env.events ++ [⟨da, s.reg b⟩]
          draws := s.env.draws }
      phase := .p6 }

/-- What a peripheral does at an event (spec/47_flags_and_io.md R335, R336): OUT Addr with its own address, which is not
0, activates it; with 0 it deactivates it; with any other word a sticky one keeps its active bit and an exclusive one
becomes inactive. OUT Data is captured while active and changes no active bit. One that is inactive before the event
captures nothing at it, at the very OUT Addr that selects it neither; one that is active before an OUT Addr captures its
word if it is of the kind that does, and keeps its register if not: that is the model's choice, log 13, as N19 leaves
the capture of an OUT Addr open. Policy and address 0 are the model's too, logs 11 and 12. No event changes its address,
its policy, its capture kind or the inputs queued for it. -/
def Obligations.PeripheralSelectionAndCapture : Prop :=
  ∀ (p : Peripheral) (v : Word),
    (p.address ≠ 0 → (p.observe ⟨.addr, p.address⟩).active = true) ∧
    (p.observe ⟨.addr, 0⟩).active = false ∧
    (v ≠ 0 → v ≠ p.address → p.policy = .sticky → (p.observe ⟨.addr, v⟩).active = p.active) ∧
    (v ≠ 0 → v ≠ p.address → p.policy = .exclusive → (p.observe ⟨.addr, v⟩).active = false) ∧
    (p.observe ⟨.data, v⟩).active = p.active ∧
    (p.active = true → (p.observe ⟨.data, v⟩).reg = v) ∧
    (∀ da, p.active = false → (p.observe ⟨da, v⟩).reg = p.reg) ∧
    (p.active = true → p.capturesAddr = true → (p.observe ⟨.addr, v⟩).reg = v) ∧
    (p.active = true → p.capturesAddr = false → (p.observe ⟨.addr, v⟩).reg = p.reg) ∧
    (∀ da, (p.observe ⟨da, v⟩).address = p.address ∧ (p.observe ⟨da, v⟩).policy = p.policy ∧
      (p.observe ⟨da, v⟩).capturesAddr = p.capturesAddr ∧ (p.observe ⟨da, v⟩).inputs = p.inputs)

/-! ### Rules about every instruction -/

/-- Every instruction completes in every state, but IN with two or more active peripherals, which faults
`MultipleDrivers`: there is no exception (spec/60_exceptions.md R350). The fault is the model's choice, log 15, decision
D18, and an IN does fault in each of those states. -/
def Obligations.EveryInstructionCompletes : Prop :=
  ∀ (i : Instr) (s : State),
    ((∃ t, exec i s = .next t) ∨
      ((∃ da b, i = .inp da b) ∧ 2 ≤ s.env.activeCount ∧ exec i s = .fault (.multipleDrivers .p5 s.ir))) ∧
    (∀ da b, i = .inp da b → 2 ≤ s.env.activeCount → exec i s = .fault (.multipleDrivers .p5 s.ir))

/-- Only the register the b field names is ever written, by LD, DATA, IN and the ALU instructions but CMP
(spec/10_state.md R32). -/
def Obligations.OnlyTheDestinationRegisterChanges : Prop :=
  ∀ (i : Instr) (s t : State) (r : Reg), exec i s = .next t → i.dest ≠ some r → t.reg r = s.reg r

/-- LD, ST, DATA, JR, JMP, JMPIF, IN and OUT leave all four flags as they are (spec/70_reset_and_hazards.md R387); only
the ALU instructions write TMP and CT (spec/10_state.md R37, R40). -/
def Obligations.FlagsChangeOnlyByAluAndClf : Prop :=
  ∀ (i : Instr) (s t : State), exec i s = .next t →
    (i.isAluInstr = false → i.isClf = false → t.flags = s.flags) ∧
    (i.isAluInstr = false → t.tmp = s.tmp ∧ t.ct = s.ct)

/-- Only ST writes memory, and only the word it stores to: every other word reads as before, after every instruction
(spec/20_memory.md R64, R71). -/
def Obligations.MemoryChangesOnlyWhereStStores : Prop :=
  ∀ (i : Instr) (s t : State) (addr : Word), exec i s = .next t → storeAddress i s ≠ some addr →
    t.load addr = s.load addr

/-- The other registers, in P4 to P6 (the fetch writes IR, MAR, ACC and IAR): IR and `clk` are written by no meaning; ACC
only by the ALU instructions, DATA and JMPIF; MAR only by LD, ST, DATA, JMP and JMPIF; IAR only by the 2-word
instructions and JR (spec/10_state.md R33 to R36 and R42). The peripherals are changed only by IN and OUT, the exchanges of
spec/47_flags_and_io.md R334: that nothing else changes them is the model's (log 20), since spec/43_sequencer.md R232 lets
a peripheral's own state change at any `Update()`. The patterns that execute as one of these count as it. -/
def Obligations.InternalRegistersChangeOnlyWhereTheTableSays : Prop :=
  ∀ (i : Instr) (s t : State), exec i s = .next t →
    t.ir = s.ir ∧ t.clk = s.clk ∧
    (i.isAluInstr = false → i.stepsOver = false → t.acc = s.acc) ∧
    (i.stepsOver = false → i.isJmp = false → (∀ a b, i ≠ .ld a b) → (∀ a b, i ≠ .st a b) → t.mar = s.mar) ∧
    (i.stepsOver = false → i.isJmp = false → i.isJr = false → t.iar = s.iar) ∧
    ((∀ da b, i ≠ .inp da b) → (∀ da b, i ≠ .outp da b) → t.env = s.env)

/-! ### Invariants -/

/-- HEADLINE. Every step keeps memory in its canonical form (log 4) and ends at the instruction boundary, the stepper in
P6, from every state whose memory is in that form, inside an instruction too; and every single phase keeps the form
(spec/20_memory.md R60, spec/43_sequencer.md R231). -/
def Obligations.EveryStepKeepsMemoryCanonical : Prop :=
  (∀ s t : State, s.Inv → step s = .next t → t.Inv ∧ t.phase = .p6) ∧
  (∀ s t : State, s.Inv → phaseStep s = .next t → t.Inv)

/-- HEADLINE. If every peripheral deselects itself when another address is on the bus, and no two share an address, then
from at most one active peripheral no step, and no single phase, of any program ever faults, and at most one is active
ever after (spec/47_flags_and_io.md R335, R336). That an active bit changes at an event alone is the model's (log 20). -/
def Obligations.ExclusivePeripheralsNeverCollide : Prop :=
  (∀ s : State, s.env.soleSelection → ∃ t, step s = .next t ∧ t.env.soleSelection) ∧
  (∀ s : State, s.env.soleSelection → ∃ t, phaseStep s = .next t ∧ t.env.soleSelection)

/-- The reset state meets both invariants and counts as an instruction boundary. The empty memory list and the empty list
of peripherals are the model's (logs 3 and 8), and so is that power-on counts as a boundary (log 17), since
spec/43_sequencer.md R231 names only the end of P6. -/
def Obligations.ResetMeetsTheInvariants : Prop :=
  State.reset.Inv ∧ State.reset.env.soleSelection ∧ State.reset.phase.isBoundary = true

/-- Power-on: the stepper is in RESET, `clk` is false, IAR is the entry point, no peripheral is attached, every register the
spec leaves open holds the drawn value and every word of memory reads 0 (log 3), for every draw; and `State.reset` is
that state for IAR0 = 0x0500 and INIT = zero, the model's choice (logs 1, 2, 3; spec/10_state.md R47 marks these as
decisions D13 to D15 and D35). R47 says only that no peripheral is active; that none is attached, that the list of events
is empty and that the count of draws is 0 is the model's (logs 8, 10 and 9). -/
def Obligations.PowerOnState : Prop :=
  (∀ p : PowerOn, (build p).phase = .reset ∧ (build p).clk = false ∧ (build p).iar = p.iar0 ∧
    (build p).env.peripherals = [] ∧ (build p).env.events = [] ∧ (build p).env.draws = 0 ∧
    (build p).regs = p.regs ∧ (build p).flags = p.flags ∧ (build p).ir = p.ir ∧ (build p).mar = p.mar ∧
    (build p).acc = p.acc ∧ (build p).tmp = p.tmp ∧ (build p).ct = p.ct ∧ ∀ addr, (build p).load addr = 0) ∧
  build PowerOn.reference = State.reset ∧ State.reset.iar = 0x0500 ∧
  (∀ r, State.reset.reg r = 0) ∧ State.reset.flags = ⟨false, false, false, false⟩ ∧
  (∀ addr, State.reset.load addr = 0)

/-! ### Whole-machine rules -/

/-- HEADLINE. The power-on values of IR, MAR, ACC, TMP and CT cannot affect any run: whatever they are at a boundary, the
step ends the same way, and in a next state everything agrees but for TMP and CT, which only ALU instructions read and
which every ALU instruction writes first (spec/10_state.md R48). -/
def Obligations.InternalPowerOnValuesAreUnobservable : Prop :=
  ∀ (s : State) (ir mar acc tmp : Word) (ct : Bool), s.phase.isBoundary = true →
    (∀ t, step s = .next t → ∃ tmp' ct',
      step (s.withInternals ir mar acc tmp ct) = .next { t with tmp := tmp', ct := ct' }) ∧
    (∀ f, step s = .fault f → step (s.withInternals ir mar acc tmp ct) = .fault f) ∧
    (∀ t, step s = .next t → (nextInstr s).isAluInstr = true →
      step (s.withInternals ir mar acc tmp ct) = .next t)

/-- ST followed by LD of the same address round-trips the stored value exactly (spec/44_memory_instructions.md R261, DOC
§8), for every choice of registers. -/
def Obligations.StoreThenLoadRoundTrips : Prop :=
  ∀ (a b c : Reg) (s : State), ∃ t u : State,
    exec (.st a b) s = .next t ∧ exec (.ld a c) (fetch t) = .next u ∧ u.reg c = s.reg b

/-- A store to the word after the ST is what the next step fetches and runs, with no fence (spec/20_memory.md R79). -/
def Obligations.StoreToNextInstructionIsExecuted : Prop :=
  ∀ (s : State) (a b : Reg) (rest : List Word), s.phase.isBoundary = true →
    decode [s.load s.iar, s.load (s.iar + 1)] = .ok (.st a b, rest) → s.reg a = s.iar + 1 →
    ∃ t : State, step s = .next t ∧ t.iar = s.iar + 1 ∧ (fetch t).ir = s.reg b ∧
      step t = exec (instrOf (s.reg b) (s.load (s.iar + 2))) (fetch t)

/-- Once `done: JMP done` has run, every later instruction is the same jump and the state no longer changes; the first
time, only IR, MAR and ACC do (spec/60_exceptions.md R364). -/
def Obligations.SelfJumpIsAFixedPoint : Prop :=
  ∀ s : State, s.atSelfJump = true →
    ∃ t : State,
      t = { s with ir := s.load s.iar, mar := s.iar + 1, acc := s.iar + 1, phase := .p6 } ∧
      step s = .next t ∧ step t = .next t

/-- The carry-in hazard and its cure (spec/70_reset_and_hazards.md R386): run right after a CLF, ADD gives the plain sum
modulo 2^16, SHR and SHL logical shifts by one, whatever the flags were before. -/
def Obligations.ClfMakesAddAndShiftsPlain : Prop :=
  ∀ (a b : Reg) (s t : State), exec .clf s = .next t →
    (∃ u, exec (.add a b) (fetch t) = .next u ∧ u.reg b = s.reg a + s.reg b) ∧
    (∃ u, exec (.shr a b) (fetch t) = .next u ∧ u.reg b = s.reg a >>> 1) ∧
    (∃ u, exec (.shl a b) (fetch t) = .next u ∧ u.reg b = s.reg a <<< 1)

/-- The host's calls (spec/60_exceptions.md R362). An image of at most 65536 words loaded before the first `Step()` is read
back word by word at consecutive addresses from its base (spec/20_memory.md R81); every other word reads as before, and
nothing but memory changes. Attaching a peripheral before the first `Step()` adds it, inactive (spec/10_state.md R47), at
the end of the model's list (log 8), and changes nothing else. A host's write at a boundary replaces the one register, memory word or other piece of the tuple
(spec/10_state.md R49) by the given value and changes nothing else. After the first `Step()` loads and attachments are
refused, and so are writes inside an instruction. Going on at 0x0000 past 0xFFFF, and taking the stepper's RESET for
"before the first `Step()`" and any phase for one a host may write, are the model's choices (logs 21 and 22), and so is
that power-on counts as a boundary for the host's writes (log 17). -/
def Obligations.LoadedImageIsReadBack : Prop :=
  (∀ (s : State) (base : Word) (words : List Word), s.phase = .reset → words.length ≤ 65536 →
    ∃ t : State, loadImage (imageAt base words) s = .next t ∧
      (∀ (k : Nat) (w : Word), words[k]? = some w → t.load (base + BitVec.ofNat 16 k) = w) ∧
      (∀ addr : Word, (∀ k, k < words.length → addr ≠ base + BitVec.ofNat 16 k) → t.load addr = s.load addr) ∧
      t = { s with mem := t.mem }) ∧
  (∀ (s : State) (p : Peripheral), s.phase = .reset →
    attach p s = .next { s with
      env :=
        { peripherals := s.env.peripherals ++ [⟨p.address, p.policy, p.capturesAddr, false, p.reg, p.inputs⟩]
          events := s.env.events
          draws := s.env.draws } }) ∧
  (∀ (s : State) (image : List (Word × Word)) (p : Peripheral) (w : HostWrite),
    (s.phase ≠ .reset → loadImage image s = .refused (.imageAfterFirstStep s.phase) ∧
      attach p s = .refused (.attachAfterFirstStep s.phase)) ∧
    (s.phase.isBoundary = false → hostWrite w s = .refused (.hostWriteInsideInstruction s.phase))) ∧
  (∀ (s : State) (r : Reg) (addr v : Word) (f : Flags) (b : Bool) (p : Phase), s.phase.isBoundary = true →
    (∃ t : State, hostWrite (.reg r v) s = .next t ∧ t.reg r = v ∧ (∀ q, q ≠ r → t.reg q = s.reg q) ∧
      t = { s with regs := t.regs }) ∧
    (∃ t : State, hostWrite (.word addr v) s = .next t ∧ t.load addr = v ∧
      (∀ x, x ≠ addr → t.load x = s.load x) ∧ t = { s with mem := t.mem }) ∧
    hostWrite (.iar v) s = .next { s with iar := v } ∧
    hostWrite (.ir v) s = .next { s with ir := v } ∧
    hostWrite (.mar v) s = .next { s with mar := v } ∧
    hostWrite (.acc v) s = .next { s with acc := v } ∧
    hostWrite (.tmp v) s = .next { s with tmp := v } ∧
    hostWrite (.flags f) s = .next { s with flags := f } ∧
    hostWrite (.ct b) s = .next { s with ct := b } ∧
    hostWrite (.phase p) s = .next { s with phase := p } ∧
    hostWrite (.clk b) s = .next { s with clk := b })
end

