-- ==== Sys2Proof/Laws/Memory.lean ====
section
/-! SUPPORT. The laws of memory: a read after a write, and that every memory operation keeps the canonical form. -/

namespace Sys2Proof.Machine

variable (m : Memory) (a b : Nat) (v : Word)

@[simp] theorem Memory.read_nil : Memory.read [] a = Memory.unlisted := rfl

/-! ### Reads -/

theorem Memory.read_without : (m.without a).read b = if b = a then Memory.unlisted else m.read b := by
  induction m with
  | nil => simp [Memory.without]
  | cons c t ih =>
    obtain ⟨k, x⟩ := c
    by_cases hk : k = a
    · subst hk
      by_cases hb : b = k
      · subst hb; simpa [Memory.without] using ih
      · have : ¬ k = b := fun h => hb h.symm
        simpa [Memory.without, Memory.read, this, hb] using ih
    · by_cases hb : k = b
      · subst hb; simp [Memory.without, Memory.read, hk]
      · simpa [Memory.without, Memory.read, hk, hb] using ih

/-- Putting in an entry for an address the list does not name changes the read of that address alone. -/
theorem Memory.read_insertCell (h : m.without a = m) :
    (Memory.insertCell a v m).read b = if b = a then v else m.read b := by
  induction m with
  | nil =>
    by_cases hb : b = a
    · simp [Memory.insertCell, Memory.read, hb]
    · have : ¬ a = b := fun h => hb h.symm
      simp [Memory.insertCell, Memory.read, hb, this]
  | cons c t ih =>
    obtain ⟨k, x⟩ := c
    have hlen : ∀ l : Memory, (l.without a).length ≤ l.length := by
      intro l
      induction l with
      | nil => simp [Memory.without]
      | cons d u iu =>
        obtain ⟨j, y⟩ := d
        by_cases hj : j = a
        · simpa [Memory.without, hj] using Nat.le_succ_of_le iu
        · simpa [Memory.without, hj] using iu
    have hk : ¬ k = a := by
      intro hka
      have := hlen t
      have hl := congrArg List.length h
      simp [Memory.without, hka] at hl
      omega
    have ht : Memory.without t a = t := by simpa [Memory.without, hk] using h
    by_cases hlt : a < k
    · by_cases hb : b = a
      · simp [Memory.insertCell, Memory.read, hlt, hb]
      · have : ¬ a = b := fun h => hb h.symm
        simp [Memory.insertCell, Memory.read, hlt, hb, this]
    · by_cases hb : k = b
      · subst hb
        simp [Memory.insertCell, Memory.read, hlt, hk]
      · simpa [Memory.insertCell, Memory.read, hlt, hb] using ih ht

theorem Memory.without_without : (m.without a).without a = m.without a := by
  induction m with
  | nil => rfl
  | cons c t ih =>
    obtain ⟨k, x⟩ := c
    by_cases hk : k = a <;> simp [Memory.without, hk, ih]

/-- Read after write: the written word at that address, and every other word as before. It holds of every list, in
canonical form or not. -/
theorem Memory.read_write : (m.write a v).read b = if b = a then v else m.read b := by
  by_cases hv : v = Memory.unlisted
  · subst hv; simp [Memory.write, Memory.read_without]
  · simp only [Memory.write, hv, if_false]
    rw [Memory.read_insertCell _ _ _ _ (Memory.without_without m a), Memory.read_without]
    by_cases hb : b = a <;> simp [hb]

/-- Taking out an entry that was just put in. -/
theorem Memory.without_insertCell (h : m.without a = m) : (Memory.insertCell a v m).without a = m := by
  induction m with
  | nil => simp [Memory.insertCell, Memory.without]
  | cons c t ih =>
    obtain ⟨k, x⟩ := c
    by_cases hk : k = a
    · have hl := congrArg List.length h
      have hlen : ∀ l : Memory, (l.without a).length ≤ l.length := by
        intro l
        induction l with
        | nil => simp [Memory.without]
        | cons d u iu =>
          obtain ⟨j, y⟩ := d
          by_cases hj : j = a
          · simpa [Memory.without, hj] using Nat.le_succ_of_le iu
          · simpa [Memory.without, hj] using iu
      have := hlen t
      simp [Memory.without, hk] at hl
      omega
    · have ht : Memory.without t a = t := by simpa [Memory.without, hk] using h
      by_cases hlt : a < k
      · simp [Memory.insertCell, Memory.without, hlt, hk, ht]
      · simp [Memory.insertCell, Memory.without, hlt, hk, ih ht]

/-- A second write to the same address replaces the first. -/
theorem Memory.write_write (w : Word) : (m.write a w).write a v = m.write a v := by
  have h : (m.write a w).without a = m.without a := by
    by_cases hw : w = Memory.unlisted
    · simp [Memory.write, hw, Memory.without_without]
    · simp [Memory.write, hw, Memory.without_insertCell _ _ _ (Memory.without_without m a)]
  rw [Memory.write, h, ← Memory.write]

/-! ### The canonical form -/

theorem Memory.wfFrom_mono {lo lo' : Nat} (h : lo' ≤ lo) (hm : Memory.wfFrom lo m = true) :
    Memory.wfFrom lo' m = true := by
  cases m with
  | nil => rfl
  | cons c t =>
    obtain ⟨k, x⟩ := c
    simp only [Memory.wfFrom, Bool.and_eq_true, decide_eq_true_eq] at hm ⊢
    exact ⟨⟨⟨h.trans hm.1.1.1, hm.1.1.2⟩, hm.1.2⟩, hm.2⟩

theorem Memory.wfFrom_without {lo : Nat} (hm : Memory.wfFrom lo m = true) : Memory.wfFrom lo (m.without a) = true := by
  induction m generalizing lo with
  | nil => rfl
  | cons c t ih =>
    obtain ⟨k, x⟩ := c
    simp only [Memory.wfFrom, Bool.and_eq_true, decide_eq_true_eq] at hm
    by_cases hk : k = a
    · simp only [Memory.without, hk, if_true]
      exact Memory.wfFrom_mono _ (hm.1.1.1.trans (Nat.le_succ k)) (ih hm.2)
    · simp only [Memory.without, hk, if_false, Memory.wfFrom, Bool.and_eq_true, decide_eq_true_eq]
      exact ⟨hm.1, ih hm.2⟩

theorem Memory.wfFrom_insertCell {lo : Nat} (hlo : lo ≤ a) (ha : a < Config.memoryWords)
    (hv : v ≠ Memory.unlisted) (hfree : ∀ x, (a, x) ∉ m) (hm : Memory.wfFrom lo m = true) :
    Memory.wfFrom lo (Memory.insertCell a v m) = true := by
  induction m generalizing lo with
  | nil => simp [Memory.insertCell, Memory.wfFrom, hlo, ha, hv]
  | cons c t ih =>
    obtain ⟨k, x⟩ := c
    simp only [Memory.wfFrom, Bool.and_eq_true, decide_eq_true_eq] at hm
    have hk : k ≠ a := fun h => hfree x (by simp [h])
    by_cases hlt : a < k
    · simp only [Memory.insertCell, hlt, if_true, Memory.wfFrom, Bool.and_eq_true, decide_eq_true_eq]
      exact ⟨⟨⟨hlo, ha⟩, hv⟩, ⟨⟨hlt, hm.1.1.2⟩, hm.1.2⟩, hm.2⟩
    · simp only [Memory.insertCell, hlt, if_false, Memory.wfFrom, Bool.and_eq_true, decide_eq_true_eq]
      refine ⟨hm.1, ih (by omega) (fun y hy => hfree y (List.mem_cons_of_mem _ hy)) hm.2⟩

theorem Memory.not_mem_without (x : Word) : (a, x) ∉ m.without a := by
  induction m with
  | nil => simp [Memory.without]
  | cons c t ih =>
    obtain ⟨k, y⟩ := c
    by_cases hk : k = a
    · simpa [Memory.without, hk] using ih
    · have : ¬ a = k := fun h => hk h.symm
      simpa [Memory.without, hk, this] using ih

/-- A write inside the address space keeps the canonical form. -/
theorem Memory.wf_write (ha : a < Config.memoryWords) (hm : m.wf = true) : (m.write a v).wf = true := by
  have he : Memory.wfFrom 0 (m.without a) = true := Memory.wfFrom_without m a hm
  by_cases hv : v = Memory.unlisted
  · simpa [Memory.write, hv, Memory.wf] using he
  · simp only [Memory.write, hv, if_false, Memory.wf]
    exact Memory.wfFrom_insertCell _ _ _ (Nat.zero_le a) ha hv (Memory.not_mem_without m a) he

theorem word_in_memory (x : Word) : x.toNat < Config.memoryWords := x.isLt

theorem reset_mem_wf : State.reset.mem.wf = true := rfl

/-! ### The same on the state -/

/-- A read after a store. -/
theorem State.load_store (s : State) (x y w : Word) :
    (s.store x w).load y = if y = x then w else s.load y := by
  simp only [State.store, State.load, Memory.read_write]
  by_cases h : y = x
  · simp [h]
  · have : ¬ y.toNat = x.toNat := fun e => h (BitVec.eq_of_toNat_eq e)
    simp [h, this]

/-- A store keeps the canonical form. -/
theorem State.store_wf (s : State) (x w : Word) (h : s.mem.wf = true) : (s.store x w).mem.wf = true :=
  Memory.wf_write _ _ _ (word_in_memory x) h

end Sys2Proof.Machine
end

