-- ==== Sys2Proof/Laws/State.lean ====
section
/-! SUPPORT. One lemma per field per named update of the state, so that no proof unfolds a record update. -/

namespace Sys2Proof.Machine

variable (s : State)

/-! ### `State.setReg` -/

@[simp] theorem State.setReg_regs (r : Reg) (v : Word) : (s.setReg r v).regs = s.regs.set r v := rfl
@[simp] theorem State.setReg_iar (r : Reg) (v : Word) : (s.setReg r v).iar = s.iar := rfl
@[simp] theorem State.setReg_ir (r : Reg) (v : Word) : (s.setReg r v).ir = s.ir := rfl
@[simp] theorem State.setReg_mar (r : Reg) (v : Word) : (s.setReg r v).mar = s.mar := rfl
@[simp] theorem State.setReg_acc (r : Reg) (v : Word) : (s.setReg r v).acc = s.acc := rfl
@[simp] theorem State.setReg_tmp (r : Reg) (v : Word) : (s.setReg r v).tmp = s.tmp := rfl
@[simp] theorem State.setReg_flags (r : Reg) (v : Word) : (s.setReg r v).flags = s.flags := rfl
@[simp] theorem State.setReg_ct (r : Reg) (v : Word) : (s.setReg r v).ct = s.ct := rfl
@[simp] theorem State.setReg_mem (r : Reg) (v : Word) : (s.setReg r v).mem = s.mem := rfl
@[simp] theorem State.setReg_phase (r : Reg) (v : Word) : (s.setReg r v).phase = s.phase := rfl
@[simp] theorem State.setReg_clk (r : Reg) (v : Word) : (s.setReg r v).clk = s.clk := rfl
@[simp] theorem State.setReg_env (r : Reg) (v : Word) : (s.setReg r v).env = s.env := rfl
@[simp] theorem State.setReg_load (r : Reg) (v : Word) (x : Word) : (s.setReg r v).load x = s.load x := rfl

/-! ### `State.setIar` -/

@[simp] theorem State.setIar_regs (v : Word) : (s.setIar v).regs = s.regs := rfl
@[simp] theorem State.setIar_iar (v : Word) : (s.setIar v).iar = v := rfl
@[simp] theorem State.setIar_ir (v : Word) : (s.setIar v).ir = s.ir := rfl
@[simp] theorem State.setIar_mar (v : Word) : (s.setIar v).mar = s.mar := rfl
@[simp] theorem State.setIar_acc (v : Word) : (s.setIar v).acc = s.acc := rfl
@[simp] theorem State.setIar_tmp (v : Word) : (s.setIar v).tmp = s.tmp := rfl
@[simp] theorem State.setIar_flags (v : Word) : (s.setIar v).flags = s.flags := rfl
@[simp] theorem State.setIar_ct (v : Word) : (s.setIar v).ct = s.ct := rfl
@[simp] theorem State.setIar_mem (v : Word) : (s.setIar v).mem = s.mem := rfl
@[simp] theorem State.setIar_phase (v : Word) : (s.setIar v).phase = s.phase := rfl
@[simp] theorem State.setIar_clk (v : Word) : (s.setIar v).clk = s.clk := rfl
@[simp] theorem State.setIar_env (v : Word) : (s.setIar v).env = s.env := rfl
@[simp] theorem State.setIar_reg (v : Word) (q : Reg) : (s.setIar v).reg q = s.reg q := rfl
@[simp] theorem State.setIar_load (v : Word) (x : Word) : (s.setIar v).load x = s.load x := rfl

/-! ### `State.setIr` -/

@[simp] theorem State.setIr_regs (v : Word) : (s.setIr v).regs = s.regs := rfl
@[simp] theorem State.setIr_iar (v : Word) : (s.setIr v).iar = s.iar := rfl
@[simp] theorem State.setIr_ir (v : Word) : (s.setIr v).ir = v := rfl
@[simp] theorem State.setIr_mar (v : Word) : (s.setIr v).mar = s.mar := rfl
@[simp] theorem State.setIr_acc (v : Word) : (s.setIr v).acc = s.acc := rfl
@[simp] theorem State.setIr_tmp (v : Word) : (s.setIr v).tmp = s.tmp := rfl
@[simp] theorem State.setIr_flags (v : Word) : (s.setIr v).flags = s.flags := rfl
@[simp] theorem State.setIr_ct (v : Word) : (s.setIr v).ct = s.ct := rfl
@[simp] theorem State.setIr_mem (v : Word) : (s.setIr v).mem = s.mem := rfl
@[simp] theorem State.setIr_phase (v : Word) : (s.setIr v).phase = s.phase := rfl
@[simp] theorem State.setIr_clk (v : Word) : (s.setIr v).clk = s.clk := rfl
@[simp] theorem State.setIr_env (v : Word) : (s.setIr v).env = s.env := rfl
@[simp] theorem State.setIr_reg (v : Word) (q : Reg) : (s.setIr v).reg q = s.reg q := rfl
@[simp] theorem State.setIr_load (v : Word) (x : Word) : (s.setIr v).load x = s.load x := rfl

/-! ### `State.setMar` -/

@[simp] theorem State.setMar_regs (v : Word) : (s.setMar v).regs = s.regs := rfl
@[simp] theorem State.setMar_iar (v : Word) : (s.setMar v).iar = s.iar := rfl
@[simp] theorem State.setMar_ir (v : Word) : (s.setMar v).ir = s.ir := rfl
@[simp] theorem State.setMar_mar (v : Word) : (s.setMar v).mar = v := rfl
@[simp] theorem State.setMar_acc (v : Word) : (s.setMar v).acc = s.acc := rfl
@[simp] theorem State.setMar_tmp (v : Word) : (s.setMar v).tmp = s.tmp := rfl
@[simp] theorem State.setMar_flags (v : Word) : (s.setMar v).flags = s.flags := rfl
@[simp] theorem State.setMar_ct (v : Word) : (s.setMar v).ct = s.ct := rfl
@[simp] theorem State.setMar_mem (v : Word) : (s.setMar v).mem = s.mem := rfl
@[simp] theorem State.setMar_phase (v : Word) : (s.setMar v).phase = s.phase := rfl
@[simp] theorem State.setMar_clk (v : Word) : (s.setMar v).clk = s.clk := rfl
@[simp] theorem State.setMar_env (v : Word) : (s.setMar v).env = s.env := rfl
@[simp] theorem State.setMar_reg (v : Word) (q : Reg) : (s.setMar v).reg q = s.reg q := rfl
@[simp] theorem State.setMar_load (v : Word) (x : Word) : (s.setMar v).load x = s.load x := rfl

/-! ### `State.setAcc` -/

@[simp] theorem State.setAcc_regs (v : Word) : (s.setAcc v).regs = s.regs := rfl
@[simp] theorem State.setAcc_iar (v : Word) : (s.setAcc v).iar = s.iar := rfl
@[simp] theorem State.setAcc_ir (v : Word) : (s.setAcc v).ir = s.ir := rfl
@[simp] theorem State.setAcc_mar (v : Word) : (s.setAcc v).mar = s.mar := rfl
@[simp] theorem State.setAcc_acc (v : Word) : (s.setAcc v).acc = v := rfl
@[simp] theorem State.setAcc_tmp (v : Word) : (s.setAcc v).tmp = s.tmp := rfl
@[simp] theorem State.setAcc_flags (v : Word) : (s.setAcc v).flags = s.flags := rfl
@[simp] theorem State.setAcc_ct (v : Word) : (s.setAcc v).ct = s.ct := rfl
@[simp] theorem State.setAcc_mem (v : Word) : (s.setAcc v).mem = s.mem := rfl
@[simp] theorem State.setAcc_phase (v : Word) : (s.setAcc v).phase = s.phase := rfl
@[simp] theorem State.setAcc_clk (v : Word) : (s.setAcc v).clk = s.clk := rfl
@[simp] theorem State.setAcc_env (v : Word) : (s.setAcc v).env = s.env := rfl
@[simp] theorem State.setAcc_reg (v : Word) (q : Reg) : (s.setAcc v).reg q = s.reg q := rfl
@[simp] theorem State.setAcc_load (v : Word) (x : Word) : (s.setAcc v).load x = s.load x := rfl

/-! ### `State.setTmp` -/

@[simp] theorem State.setTmp_regs (v : Word) : (s.setTmp v).regs = s.regs := rfl
@[simp] theorem State.setTmp_iar (v : Word) : (s.setTmp v).iar = s.iar := rfl
@[simp] theorem State.setTmp_ir (v : Word) : (s.setTmp v).ir = s.ir := rfl
@[simp] theorem State.setTmp_mar (v : Word) : (s.setTmp v).mar = s.mar := rfl
@[simp] theorem State.setTmp_acc (v : Word) : (s.setTmp v).acc = s.acc := rfl
@[simp] theorem State.setTmp_tmp (v : Word) : (s.setTmp v).tmp = v := rfl
@[simp] theorem State.setTmp_flags (v : Word) : (s.setTmp v).flags = s.flags := rfl
@[simp] theorem State.setTmp_ct (v : Word) : (s.setTmp v).ct = s.ct := rfl
@[simp] theorem State.setTmp_mem (v : Word) : (s.setTmp v).mem = s.mem := rfl
@[simp] theorem State.setTmp_phase (v : Word) : (s.setTmp v).phase = s.phase := rfl
@[simp] theorem State.setTmp_clk (v : Word) : (s.setTmp v).clk = s.clk := rfl
@[simp] theorem State.setTmp_env (v : Word) : (s.setTmp v).env = s.env := rfl
@[simp] theorem State.setTmp_reg (v : Word) (q : Reg) : (s.setTmp v).reg q = s.reg q := rfl
@[simp] theorem State.setTmp_load (v : Word) (x : Word) : (s.setTmp v).load x = s.load x := rfl

/-! ### `State.setFlags` -/

@[simp] theorem State.setFlags_regs (f : Flags) : (s.setFlags f).regs = s.regs := rfl
@[simp] theorem State.setFlags_iar (f : Flags) : (s.setFlags f).iar = s.iar := rfl
@[simp] theorem State.setFlags_ir (f : Flags) : (s.setFlags f).ir = s.ir := rfl
@[simp] theorem State.setFlags_mar (f : Flags) : (s.setFlags f).mar = s.mar := rfl
@[simp] theorem State.setFlags_acc (f : Flags) : (s.setFlags f).acc = s.acc := rfl
@[simp] theorem State.setFlags_tmp (f : Flags) : (s.setFlags f).tmp = s.tmp := rfl
@[simp] theorem State.setFlags_flags (f : Flags) : (s.setFlags f).flags = f := rfl
@[simp] theorem State.setFlags_ct (f : Flags) : (s.setFlags f).ct = s.ct := rfl
@[simp] theorem State.setFlags_mem (f : Flags) : (s.setFlags f).mem = s.mem := rfl
@[simp] theorem State.setFlags_phase (f : Flags) : (s.setFlags f).phase = s.phase := rfl
@[simp] theorem State.setFlags_clk (f : Flags) : (s.setFlags f).clk = s.clk := rfl
@[simp] theorem State.setFlags_env (f : Flags) : (s.setFlags f).env = s.env := rfl
@[simp] theorem State.setFlags_reg (f : Flags) (q : Reg) : (s.setFlags f).reg q = s.reg q := rfl
@[simp] theorem State.setFlags_load (f : Flags) (x : Word) : (s.setFlags f).load x = s.load x := rfl

/-! ### `State.setCt` -/

@[simp] theorem State.setCt_regs (b : Bool) : (s.setCt b).regs = s.regs := rfl
@[simp] theorem State.setCt_iar (b : Bool) : (s.setCt b).iar = s.iar := rfl
@[simp] theorem State.setCt_ir (b : Bool) : (s.setCt b).ir = s.ir := rfl
@[simp] theorem State.setCt_mar (b : Bool) : (s.setCt b).mar = s.mar := rfl
@[simp] theorem State.setCt_acc (b : Bool) : (s.setCt b).acc = s.acc := rfl
@[simp] theorem State.setCt_tmp (b : Bool) : (s.setCt b).tmp = s.tmp := rfl
@[simp] theorem State.setCt_flags (b : Bool) : (s.setCt b).flags = s.flags := rfl
@[simp] theorem State.setCt_ct (b : Bool) : (s.setCt b).ct = b := rfl
@[simp] theorem State.setCt_mem (b : Bool) : (s.setCt b).mem = s.mem := rfl
@[simp] theorem State.setCt_phase (b : Bool) : (s.setCt b).phase = s.phase := rfl
@[simp] theorem State.setCt_clk (b : Bool) : (s.setCt b).clk = s.clk := rfl
@[simp] theorem State.setCt_env (b : Bool) : (s.setCt b).env = s.env := rfl
@[simp] theorem State.setCt_reg (b : Bool) (q : Reg) : (s.setCt b).reg q = s.reg q := rfl
@[simp] theorem State.setCt_load (b : Bool) (x : Word) : (s.setCt b).load x = s.load x := rfl

/-! ### `State.store` -/

@[simp] theorem State.store_regs (a v : Word) : (s.store a v).regs = s.regs := rfl
@[simp] theorem State.store_iar (a v : Word) : (s.store a v).iar = s.iar := rfl
@[simp] theorem State.store_ir (a v : Word) : (s.store a v).ir = s.ir := rfl
@[simp] theorem State.store_mar (a v : Word) : (s.store a v).mar = s.mar := rfl
@[simp] theorem State.store_acc (a v : Word) : (s.store a v).acc = s.acc := rfl
@[simp] theorem State.store_tmp (a v : Word) : (s.store a v).tmp = s.tmp := rfl
@[simp] theorem State.store_flags (a v : Word) : (s.store a v).flags = s.flags := rfl
@[simp] theorem State.store_ct (a v : Word) : (s.store a v).ct = s.ct := rfl
@[simp] theorem State.store_mem (a v : Word) : (s.store a v).mem = s.mem.write a.toNat v := rfl
@[simp] theorem State.store_phase (a v : Word) : (s.store a v).phase = s.phase := rfl
@[simp] theorem State.store_clk (a v : Word) : (s.store a v).clk = s.clk := rfl
@[simp] theorem State.store_env (a v : Word) : (s.store a v).env = s.env := rfl
@[simp] theorem State.store_reg (a v : Word) (q : Reg) : (s.store a v).reg q = s.reg q := rfl

/-! ### `State.setPhase` -/

@[simp] theorem State.setPhase_regs (p : Phase) : (s.setPhase p).regs = s.regs := rfl
@[simp] theorem State.setPhase_iar (p : Phase) : (s.setPhase p).iar = s.iar := rfl
@[simp] theorem State.setPhase_ir (p : Phase) : (s.setPhase p).ir = s.ir := rfl
@[simp] theorem State.setPhase_mar (p : Phase) : (s.setPhase p).mar = s.mar := rfl
@[simp] theorem State.setPhase_acc (p : Phase) : (s.setPhase p).acc = s.acc := rfl
@[simp] theorem State.setPhase_tmp (p : Phase) : (s.setPhase p).tmp = s.tmp := rfl
@[simp] theorem State.setPhase_flags (p : Phase) : (s.setPhase p).flags = s.flags := rfl
@[simp] theorem State.setPhase_ct (p : Phase) : (s.setPhase p).ct = s.ct := rfl
@[simp] theorem State.setPhase_mem (p : Phase) : (s.setPhase p).mem = s.mem := rfl
@[simp] theorem State.setPhase_phase (p : Phase) : (s.setPhase p).phase = p := rfl
@[simp] theorem State.setPhase_clk (p : Phase) : (s.setPhase p).clk = s.clk := rfl
@[simp] theorem State.setPhase_env (p : Phase) : (s.setPhase p).env = s.env := rfl
@[simp] theorem State.setPhase_reg (p : Phase) (q : Reg) : (s.setPhase p).reg q = s.reg q := rfl
@[simp] theorem State.setPhase_load (p : Phase) (x : Word) : (s.setPhase p).load x = s.load x := rfl

/-! ### `State.toggleClk` -/

@[simp] theorem State.toggleClk_regs : s.toggleClk.regs = s.regs := rfl
@[simp] theorem State.toggleClk_iar : s.toggleClk.iar = s.iar := rfl
@[simp] theorem State.toggleClk_ir : s.toggleClk.ir = s.ir := rfl
@[simp] theorem State.toggleClk_mar : s.toggleClk.mar = s.mar := rfl
@[simp] theorem State.toggleClk_acc : s.toggleClk.acc = s.acc := rfl
@[simp] theorem State.toggleClk_tmp : s.toggleClk.tmp = s.tmp := rfl
@[simp] theorem State.toggleClk_flags : s.toggleClk.flags = s.flags := rfl
@[simp] theorem State.toggleClk_ct : s.toggleClk.ct = s.ct := rfl
@[simp] theorem State.toggleClk_mem : s.toggleClk.mem = s.mem := rfl
@[simp] theorem State.toggleClk_phase : s.toggleClk.phase = s.phase := rfl
@[simp] theorem State.toggleClk_clk : s.toggleClk.clk = !s.clk := rfl
@[simp] theorem State.toggleClk_env : s.toggleClk.env = s.env := rfl
@[simp] theorem State.toggleClk_reg (q : Reg) : s.toggleClk.reg q = s.reg q := rfl
@[simp] theorem State.toggleClk_load (x : Word) : s.toggleClk.load x = s.load x := rfl

/-! ### `State.setEnv` -/

@[simp] theorem State.setEnv_regs (e : Env) : (s.setEnv e).regs = s.regs := rfl
@[simp] theorem State.setEnv_iar (e : Env) : (s.setEnv e).iar = s.iar := rfl
@[simp] theorem State.setEnv_ir (e : Env) : (s.setEnv e).ir = s.ir := rfl
@[simp] theorem State.setEnv_mar (e : Env) : (s.setEnv e).mar = s.mar := rfl
@[simp] theorem State.setEnv_acc (e : Env) : (s.setEnv e).acc = s.acc := rfl
@[simp] theorem State.setEnv_tmp (e : Env) : (s.setEnv e).tmp = s.tmp := rfl
@[simp] theorem State.setEnv_flags (e : Env) : (s.setEnv e).flags = s.flags := rfl
@[simp] theorem State.setEnv_ct (e : Env) : (s.setEnv e).ct = s.ct := rfl
@[simp] theorem State.setEnv_mem (e : Env) : (s.setEnv e).mem = s.mem := rfl
@[simp] theorem State.setEnv_phase (e : Env) : (s.setEnv e).phase = s.phase := rfl
@[simp] theorem State.setEnv_clk (e : Env) : (s.setEnv e).clk = s.clk := rfl
@[simp] theorem State.setEnv_env (e : Env) : (s.setEnv e).env = e := rfl
@[simp] theorem State.setEnv_reg (e : Env) (q : Reg) : (s.setEnv e).reg q = s.reg q := rfl
@[simp] theorem State.setEnv_load (e : Env) (x : Word) : (s.setEnv e).load x = s.load x := rfl

/-- Toggling the clock-state flag twice, as the two half-cycles of a `Step()` do, leaves the state as it was. -/
@[simp] theorem State.toggleClk_toggleClk : s.toggleClk.toggleClk = s := by
  simp [State.toggleClk]

end Sys2Proof.Machine
end

