-- ==== Sys2Proof/Laws/Ops.lean ====
section
/-! SUPPORT. What each shared operation does, said once: registers, fetch, the bus, and the operations the meanings
are made of. -/

namespace Sys2Proof.Machine

/-! ### Registers -/

/-- A register read after a register write. -/
theorem RegFile.get_set (f : RegFile) (r q : Reg) (v : Word) : (f.set r v).get q = if q = r then v else f.get q := by
  cases r <;> cases q <;> rfl

/-- The same on the state. -/
theorem State.reg_setReg (s : State) (r q : Reg) (v : Word) : (s.setReg r v).reg q = if q = r then v else s.reg q :=
  RegFile.get_set s.regs r q v

/-- Two register files with the same four words are the same. -/
theorem RegFile.ext_get {f g : RegFile} (h : ∀ r, f.get r = g.get r) : f = g := by
  obtain ⟨a0, a1, a2, a3⟩ := f
  obtain ⟨b0, b1, b2, b3⟩ := g
  have h0 := h .r0
  have h1 := h .r1
  have h2 := h .r2
  have h3 := h .r3
  simp_all [RegFile.get]

/-! ### Fetch -/

/-- Everything the fetch does (spec/43_sequencer.md R227). -/
theorem fetch_eq (s : State) :
    fetch s = { s with mar := s.iar, acc := s.iar + 1, ir := s.load s.iar, iar := s.iar + 1, phase := .p3 } := rfl

/-! ### The main bus -/

theorem mainBus_none_iff (d : List Word) : mainBus d = none ↔ 2 ≤ d.length := by
  match d with
  | [] => simp [mainBus]
  | [v] => simp [mainBus]
  | v :: w :: t => simp [mainBus]

theorem mainBus_some_iff (d : List Word) (v : Word) : mainBus d = some v ↔ (d = [] ∧ v = 0) ∨ d = [v] := by
  match d with
  | [] =>
    constructor
    · intro h
      simp only [mainBus, Option.some.injEq] at h
      exact Or.inl ⟨rfl, h.symm⟩
    · rintro (⟨-, rfl⟩ | h)
      · rfl
      · simp at h
  | [w] => simp [mainBus]
  | w :: x :: t => simp [mainBus]

/-- One word for each active peripheral. -/
theorem Env.drive_length (e : Env) (da : IoSel) : (e.drive da).length = (e.peripherals.filter (·.active)).length := by
  simp [Env.drive]

/-! ### The operations the meanings share -/

theorem addressSecondWord_eq (s : State) : addressSecondWord s = { s with mar := s.iar } := rfl

theorem stepOverSecondWord_eq (s : State) :
    stepOverSecondWord s = { s with mar := s.iar, acc := s.iar + 1, iar := s.iar + 1 } := rfl

theorem loadLiteral_eq (b : Reg) (lit : Word) (s : State) :
    loadLiteral b lit s =
      { s with mar := s.iar, acc := s.iar + 1, iar := s.iar + 1, regs := s.regs.set b lit, phase := .p6 } := rfl

theorem jumpToRegister_eq (b : Reg) (s : State) :
    jumpToRegister b s = { s with iar := s.reg b, phase := .p6 } := rfl

theorem jumpToAddress_eq (addr : Word) (s : State) :
    jumpToAddress addr s = { s with mar := s.iar, iar := addr, phase := .p6 } := rfl

theorem jumpIf_eq (mask : FlagMask) (addr : Word) (s : State) :
    jumpIf mask addr s =
      { s with
        mar := s.iar
        acc := s.iar + 1
        iar := if s.flags.cond mask then addr else s.iar + 1
        phase := .p6 } := by
  cases h : s.flags.cond mask <;> simp [jumpIf, stepOverSecondWord_eq, finish, State.setPhase, State.setIar, h]

theorem clearFlags_eq (s : State) : clearFlags s = { s with flags := ⟨false, false, false, false⟩, phase := .p6 } := rfl

/-- Everything an ALU instruction does (spec/45_alu_instructions.md R280). -/
theorem aluInstruction_eq (op : AluOp) (a b : Reg) (s : State) :
    aluInstruction op a b s =
      { s with
        tmp := s.reg b
        ct := s.flags.c
        acc := (alu op (s.reg a) (s.reg b) s.flags.c).out
        flags := (alu op (s.reg a) (s.reg b) s.flags.c).flags
        regs := if aluWritesRegister op then s.regs.set b (alu op (s.reg a) (s.reg b) s.flags.c).out else s.regs
        phase := .p6 } := by
  cases op <;> rfl

/-- `emit` changes the environment alone. -/
theorem emit_eq (s : State) (da : IoSel) (v : Word) : emit s da v = { s with env := s.env.observe ⟨da, v⟩ } := rfl

/-- An observed peripheral keeps its address, its policy and its inputs. -/
theorem Peripheral.observe_fixed (p : Peripheral) (ev : OutEvent) :
    (p.observe ev).address = p.address ∧ (p.observe ev).policy = p.policy ∧ (p.observe ev).inputs = p.inputs ∧
      (p.observe ev).capturesAddr = p.capturesAddr := by
  cases h : ev.da <;> simp [Peripheral.observe, h]

/-- All that driving does to a peripheral: an active one loses the oldest input queued for it. -/
theorem Peripheral.driven_eq (p : Peripheral) :
    p.driven = { p with inputs := if p.active then p.inputs.tail else p.inputs } := by
  obtain ⟨address, policy, captures, active, reg, inputs⟩ := p
  cases active <;> rfl

/-- All that an IN does to the environment. -/
theorem Env.afterDrive_eq (e : Env) :
    e.afterDrive =
      { peripherals := e.peripherals.map fun p => { p with inputs := if p.active then p.inputs.tail else p.inputs }
        events := e.events
        draws := e.draws + 1 } := by
  simp [Env.afterDrive, funext Peripheral.driven_eq]

/-- A peripheral that has driven keeps all but its inputs. -/
theorem Peripheral.driven_fixed (p : Peripheral) :
    p.driven.address = p.address ∧ p.driven.policy = p.policy ∧ p.driven.active = p.active ∧ p.driven.reg = p.reg ∧
      p.driven.capturesAddr = p.capturesAddr := by
  cases h : p.active <;> simp [Peripheral.driven, h]

end Sys2Proof.Machine
end

