-- ==== Sys2Proof/Laws/PerInstr.lean ====
section
/-! SUPPORT. Facts about every instruction as syntax, one lemma per constructor. Family `WordCount`: an encoding is one
opcode word whose high byte is 0, and a second word exactly when the opcode word is of a 2-word class
(spec/30_encoding.md R91, R99). -/

namespace Sys2Proof.Laws.WordCount

/-- R91 and R99, of one instruction. -/
def Statement (i : Instr) : Prop :=
  ∃ w rest, encode i = w :: rest ∧ w.toNat < 256 ∧ rest.length = if isTwoWord w then 1 else 0

theorem ld (a b : Reg) : Statement (.ld a b) := ⟨_, _, rfl, by cases a <;> cases b <;> decide⟩

theorem st (a b : Reg) : Statement (.st a b) := ⟨_, _, rfl, by cases a <;> cases b <;> decide⟩

theorem data (b : Reg) (lit : Word) : Statement (.data b lit) := ⟨_, _, rfl, by cases b <;> exact ⟨by decide, rfl⟩⟩

theorem jr (b : Reg) : Statement (.jr b) := ⟨_, _, rfl, by cases b <;> decide⟩

theorem jmp (addr : Word) : Statement (.jmp addr) := ⟨_, _, rfl, by decide, rfl⟩

theorem jmpif (mask : FlagMask) (addr : Word) : Statement (.jmpif mask addr) := by
  obtain ⟨c, a, e, z⟩ := mask
  exact ⟨_, _, rfl, by cases c <;> cases a <;> cases e <;> cases z <;> exact ⟨by decide, rfl⟩⟩

theorem clf : Statement .clf := ⟨_, _, rfl, by decide⟩

theorem inp (da : IoSel) (b : Reg) : Statement (.inp da b) := ⟨_, _, rfl, by cases da <;> cases b <;> decide⟩

theorem outp (da : IoSel) (b : Reg) : Statement (.outp da b) := ⟨_, _, rfl, by cases da <;> cases b <;> decide⟩

theorem add (a b : Reg) : Statement (.add a b) := ⟨_, _, rfl, by cases a <;> cases b <;> decide⟩

theorem shr (a b : Reg) : Statement (.shr a b) := ⟨_, _, rfl, by cases a <;> cases b <;> decide⟩

theorem shl (a b : Reg) : Statement (.shl a b) := ⟨_, _, rfl, by cases a <;> cases b <;> decide⟩

theorem not (a b : Reg) : Statement (.not a b) := ⟨_, _, rfl, by cases a <;> cases b <;> decide⟩

theorem and (a b : Reg) : Statement (.and a b) := ⟨_, _, rfl, by cases a <;> cases b <;> decide⟩

theorem or (a b : Reg) : Statement (.or a b) := ⟨_, _, rfl, by cases a <;> cases b <;> decide⟩

theorem xor (a b : Reg) : Statement (.xor a b) := ⟨_, _, rfl, by cases a <;> cases b <;> decide⟩

theorem cmp (a b : Reg) : Statement (.cmp a b) := ⟨_, _, rfl, by cases a <;> cases b <;> decide⟩

theorem dataUndef (ign : BitVec 2) (b : Reg) (lit : Word) : Statement (.dataUndef ign b lit) := by
  refine ⟨_, _, rfl, ?_⟩
  have h : ∀ x : BitVec 2, ((0x20 ||| (x.setWidth 16 <<< 2) ||| b.code : Word).toNat < 256) ∧
      1 = if isTwoWord (0x20 ||| (x.setWidth 16 <<< 2) ||| b.code) then 1 else 0 := by cases b <;> decide
  exact h ign

theorem jrUndef (ign : BitVec 2) (b : Reg) : Statement (.jrUndef ign b) := by
  refine ⟨_, _, rfl, ?_⟩
  have h : ∀ x : BitVec 2, ((0x30 ||| (x.setWidth 16 <<< 2) ||| b.code : Word).toNat < 256) ∧
      0 = if isTwoWord (0x30 ||| (x.setWidth 16 <<< 2) ||| b.code) then 1 else 0 := by cases b <;> decide
  exact h ign

theorem jmpUndef (ign : BitVec 4) (addr : Word) : Statement (.jmpUndef ign addr) := by
  refine ⟨_, _, rfl, ?_⟩
  have h : ∀ x : BitVec 4, ((0x40 ||| x.setWidth 16 : Word).toNat < 256) ∧
      1 = if isTwoWord (0x40 ||| x.setWidth 16) then 1 else 0 := by decide
  exact h ign

theorem jmpifEmpty (addr : Word) : Statement (.jmpifEmpty addr) := ⟨_, _, rfl, by decide, rfl⟩

theorem clfUndef (ign : BitVec 4) : Statement (.clfUndef ign) := by
  refine ⟨_, _, rfl, ?_⟩
  have h : ∀ x : BitVec 4, ((0x60 ||| x.setWidth 16 : Word).toNat < 256) ∧
      0 = if isTwoWord (0x60 ||| x.setWidth 16) then 1 else 0 := by decide
  exact h ign

end Sys2Proof.Laws.WordCount
end

