-- ==== Sys2Proof/Laws/Phase.lean ====
section
/-! SUPPORT. The phase level: composing `Step()` calls, what the control network asserts in the fetch, and what the set
pass does to a state no line of which is asserted. -/

namespace Sys2Proof.Machine

@[simp] theorem phaseSteps_zero (s : State) : phaseSteps 0 s = .next s := rfl

/-- A `Step()` that completes, then `n` more. -/
theorem phaseSteps_succ {s t : State} (n : Nat) (h : phaseStep s = .next t) :
    phaseSteps (n + 1) s = phaseSteps n t := by
  simp [phaseSteps, h]

/-- `m` calls that complete, then `n` more. -/
theorem phaseSteps_add {s t : State} (m n : Nat) (h : phaseSteps m s = .next t) :
    phaseSteps (m + n) s = phaseSteps n t := by
  induction m generalizing s with
  | zero =>
    simp only [phaseSteps_zero, Host.Outcome.next.injEq] at h
    simp [h]
  | succ m ih =>
    cases hp : phaseStep s with
    | next u =>
      rw [phaseSteps_succ m hp] at h
      rw [Nat.add_right_comm, phaseSteps_succ (m + n) hp, ih h]
    | fault f => simp [phaseSteps, hp] at h
    | refused r => simp [phaseSteps, hp] at h

/-- The one equation of a phase step: its bus, and the state it leaves (spec/43_sequencer.md R215). -/
theorem phaseStep_of_bus {s : State} {p : Phase} {c : Control} {bus : Word} (hp : s.phase.next = p)
    (hc : controlLines p s.ir s.flags s.ct = c) (hb : mainBus (coreDrivers c s ++ ioDrivers c s) = some bus) :
    phaseStep s = .next (((latch c bus s).setEnv (exchange c (fieldDa s.ir) bus s.env)).setPhase p) := by
  subst hp hc
  simp [phaseStep, hb]

/-- A boundary's next phase is P1. -/
theorem Phase.next_of_isBoundary {p : Phase} (h : p.isBoundary = true) : p.next = .p1 := by
  cases p <;> first | rfl | simp [Phase.isBoundary] at h

/-- P1 enables IAR alone and sets MAR and ACC, whatever IR, FLAGS and CT hold (spec/43_sequencer.md R226). -/
theorem controlLines_p1 (ir : Word) (f : Flags) (ct : Bool) :
    controlLines .p1 ir f ct =
      ⟨true, true, false, false, false, false, false, true, false, false, true, false, false, false, false, false,
        false, .add, false⟩ := by
  simp [controlLines, show (Phase.p1 == Phase.p5) = false from rfl]

/-- P2 enables memory alone and sets IR. -/
theorem controlLines_p2 (ir : Word) (f : Flags) (ct : Bool) :
    controlLines .p2 ir f ct =
      ⟨false, false, true, false, false, false, false, false, true, false, false, false, false, false, false, false,
        false, .add, false⟩ := by
  simp [controlLines, show (Phase.p2 == Phase.p5) = false from rfl]

/-- P3 enables ACC alone and sets IAR. -/
theorem controlLines_p3 (ir : Word) (f : Flags) (ct : Bool) :
    controlLines .p3 ir f ct =
      ⟨false, false, false, true, false, false, false, false, false, true, false, false, false, false, false, false,
        false, .add, false⟩ := by
  simp [controlLines, show (Phase.p3 == Phase.p5) = false from rfl]

/-- The increment the ALU computes from IAR and BusOne's constant (spec/10_state.md R33). -/
theorem alu_increment (x : Word) : (alu .add x 1 false).out = x + 1 := by
  apply BitVec.eq_of_toNat_eq
  simp [alu, aluOut, adderSum, BitVec.toNat_add]

/-- What the ALU puts on the flags bus at P4 of CLF (spec/47_flags_and_io.md R330). -/
theorem alu_clf_flags : (alu .add 0 1 false).flags = Flags.clear := by decide

end Sys2Proof.Machine
end

