-- ==== Sys2Proof/Laws/Step.lean ====
section
/-! SUPPORT. The step at an instruction boundary, and the state the host places an instruction in. -/

namespace Sys2Proof.Machine

/-- What the decoder reads from two words is the instruction of the first with the second as its operand word. -/
theorem decode_two {w second : Word} {i : Instr} {rest : List Word} (h : decode [w, second] = .ok (i, rest)) :
    i = instrOf w second := by
  simp only [decode] at h
  split at h
  · simp only [Except.ok.injEq, Prod.mk.injEq] at h
    exact h.1.symm
  · rename_i h2
    simp only [Except.ok.injEq, Prod.mk.injEq] at h
    rw [← h.1]
    simp only [isTwoWord, Bool.and_eq_true] at h2
    simp only [instrOf]
    split
    · rfl
    · rename_i h7
      cases hc : fieldClass w <;> simp [h7, hc] at h2 ⊢

/-- At a boundary a step is the meaning of the instruction at IAR, on the state the fetch leaves. -/
theorem step_boundary {s : State} (h : s.phase.isBoundary = true) : step s = exec (nextInstr s) (fetch s) := by
  simp [step, h]

/-- The instruction the host places is the one the very next step fetches and runs, in every state (log 16). -/
theorem step_withFetchWord (s : State) (nbits w : Nat) (i : Instr) (h : decodeTableWord nbits w = some i) :
    step (s.withFetchWord nbits w) = exec i (fetch (s.withFetchWord nbits w)) := by
  have hd : i = instrOf (tableWords nbits w).1 (tableWords nbits w).2 := by
    unfold decodeTableWord at h
    split at h
    · rename_i j rest hj
      simp only [Option.some.injEq] at h
      rw [← h]
      exact decode_two hj
    · simp at h
  have hne : ¬ s.iar + 1 = s.iar := by
    intro e
    have := congrArg BitVec.toNat e
    simp only [BitVec.toNat_add] at this
    have h1 : (1 : Word).toNat = 1 := rfl
    rw [h1] at this
    have := s.iar.isLt
    omega
  have hn : nextInstr (s.withFetchWord nbits w) = i := by
    rw [hd]
    have : ∀ p : State, p.iar = s.iar → (∀ x, p.load x = ((s.store (s.iar + 1) (tableWords nbits w).2).store s.iar
        (tableWords nbits w).1).load x) → nextInstr p = instrOf (tableWords nbits w).1 (tableWords nbits w).2 := by
      intro p h1 h2
      simp [nextInstr, h1, h2, State.load_store]
    unfold State.withFetchWord
    by_cases hp : s.phase.isBoundary = true
    · simp only [hp, if_true]
      exact this _ rfl fun _ => rfl
    · simp only [hp]
      exact this _ rfl fun _ => rfl
  have hb : (s.withFetchWord nbits w).phase.isBoundary = true := by
    unfold State.withFetchWord
    by_cases hp : s.phase.isBoundary = true
    · simp [hp]
    · simp only [hp]
      rfl
  rw [step_boundary hb, hn]

end Sys2Proof.Machine
end

