-- ==== Sys2Proof/Laws/Units.lean ====
section
/-! SUPPORT. What the gates and the word builder do, said once, so that claims about the units need not unfold them. -/

namespace Sys2Proof.Machine

/-! ### Gates -/

@[simp] theorem gateNand_eq (x y : Bool) : gateNand x y = !(x && y) := rfl

@[simp] theorem gateNot_eq (x : Bool) : gateNot x = !x := by cases x <;> rfl

@[simp] theorem gateAnd_eq (x y : Bool) : gateAnd x y = (x && y) := by cases x <;> cases y <;> rfl

@[simp] theorem gateOr_eq (x y : Bool) : gateOr x y = (x || y) := by cases x <;> cases y <;> rfl

@[simp] theorem gateXor_eq (x y : Bool) : gateXor x y = (x != y) := by cases x <;> cases y <;> rfl

/-- The wide OR is 1 when some input is (spec/40_storage_cells.md R124). -/
theorem gateOrN_eq_any (l : List Bool) : gateOrN l = l.any id := by
  induction l with
  | nil => rfl
  | cons x t ih => simp [gateOrN, ih]

/-- The wide AND is 1 when every input is (spec/40_storage_cells.md R124). -/
theorem gateAndN_eq_all (l : List Bool) : gateAndN l = l.all id := by
  induction l with
  | nil => rfl
  | cons x t ih => simp [gateAndN, ih]

/-! ### Words from bits -/

theorem bitsValue_lt (f : Nat → Bool) (n : Nat) : bitsValue f n < 2 ^ n := by
  induction n with
  | zero => simp [bitsValue]
  | succ n ih =>
    simp only [bitsValue]
    split <;> (rw [Nat.pow_succ]; omega)

theorem bitsValue_testBit (f : Nat → Bool) (n k : Nat) : (bitsValue f n).testBit k = (decide (k < n) && f k) := by
  induction n with
  | zero => simp [bitsValue]
  | succ n ih =>
    have hl := bitsValue_lt f n
    cases hf : f n
    · simp only [bitsValue, hf, Bool.false_eq_true, if_false, Nat.add_zero, ih]
      by_cases hk : k = n
      · subst hk; simp [hf]
      · have : k < n + 1 ↔ k < n := by omega
        simp [this]
    · simp only [bitsValue, hf, if_true]
      rw [Nat.add_comm]
      by_cases hk : k < n
      · rw [Nat.testBit_two_pow_add_gt hk, ih]
        simp [hk, Nat.lt_succ_of_lt hk]
      · by_cases hk2 : k = n
        · subst hk2
          rw [Nat.testBit_two_pow_add_eq, Nat.testBit_lt_two_pow hl]
          simp [hf]
        · have h3 : 2 ^ n + bitsValue f n < 2 ^ k := by
            have : 2 ^ (n + 1) ≤ 2 ^ k := Nat.pow_le_pow_right (by decide) (by omega)
            rw [Nat.pow_succ] at this
            omega
          have h4 : ¬ k < n + 1 := by omega
          rw [Nat.testBit_lt_two_pow h3]
          simp [h4]

/-- Bit `k` of a word built from bits. -/
theorem bit_wordOfBits (f : Nat → Bool) (k : Nat) : bit (wordOfBits f) k = (decide (k < 16) && f k) := by
  simp only [bit, wordOfBits, BitVec.getLsbD_ofNat, bitsValue_testBit]
  by_cases h : k < 16 <;> simp [h]

/-- Two words with the same bits are the same. -/
theorem word_ext {x y : Word} (h : ∀ k, k < 16 → bit x k = bit y k) : x = y :=
  BitVec.eq_of_getLsbD_eq fun k hk => h k hk

end Sys2Proof.Machine
end

