-- ==== Sys2Proof/Tests/Slice0.lean ====
section
/-! SUPPORT. Small tests. Expected values are the spec's: spec/95_test_vectors.md, and the words of spec/30_encoding.md
R97 and R98. The witnesses at the end show that the hypotheses of every statement can be met. -/

namespace Sys2Proof.Tests

open Sys2Proof.Machine

/-! ### Helpers -/

/-- The power-on state with memory words, R0 to R3 and flags CAEZ. -/
def machine (words : List (Nat × Word)) (r0 r1 r2 r3 : Word) (f : Flags := ⟨false, false, false, false⟩) : State :=
  { State.reset with mem := words.foldl (fun m c => m.write c.1 c.2) [], regs := ⟨r0, r1, r2, r3⟩, flags := f }

/-- Something of the state a step leaves. -/
def after {α : Type} (s : State) (f : State → α) : Option α :=
  match step s with
  | .next t => some (f t)
  | .fault _ => none
  | .refused _ => none

/-- Something of the state `n` calls of `Step()` leave. -/
def afterPhases {α : Type} (n : Nat) (s : State) (f : State → α) : Option α :=
  match phaseSteps n s with
  | .next t => some (f t)
  | .fault _ => none
  | .refused _ => none

/-- The side registers and the flags. -/
def side (s : State) : Word × Word × Word × Flags := (s.iar, s.mar, s.acc, s.flags)

/-- A peripheral. -/
def device (address : Word) (active : Bool) (inputs : List Word) : Peripheral :=
  ⟨address, .exclusive, false, active, 0, inputs⟩

/-- A machine with peripherals. -/
def withDevices (s : State) (l : List Peripheral) : State := { s with env := ⟨l, [], 0⟩ }

/-! ### Well-formedness: one ill-formed term for each check -/

theorem test_jmpif_empty_mask_is_ill_formed :
    (Instr.jmpif ⟨false, false, false, false⟩ 0x0700).wellFormed = false := by decide

theorem test_dataUndef_canonical_field_is_ill_formed : (Instr.dataUndef 0 .r1 0x0042).wellFormed = false := by decide

theorem test_jrUndef_canonical_field_is_ill_formed : (Instr.jrUndef 0 .r3).wellFormed = false := by decide

theorem test_jmpUndef_canonical_field_is_ill_formed : (Instr.jmpUndef 0 0x0700).wellFormed = false := by decide

theorem test_clfUndef_canonical_field_is_ill_formed : (Instr.clfUndef 0).wellFormed = false := by decide

/-! ### Decoding: words from spec/95_test_vectors.md section 2.6 and spec/30_encoding.md R97, R98, R104 -/

theorem test_decode_ld : decodeTableWord 16 0x0000 = some (.ld .r0 .r0) := by decide

theorem test_decode_st : decodeTableWord 16 0x001B = some (.st .r2 .r3) := by decide

theorem test_decode_data : decodeTableWord 32 0x12340023 = some (.data .r3 0x1234) := by decide

theorem test_decode_jr : decodeTableWord 16 0x0031 = some (.jr .r1) := by decide

theorem test_decode_jmp : decodeTableWord 32 0x07000040 = some (.jmp 0x0700) := by decide

/-- JMPCE: mask C = 1, A = 0, E = 1, Z = 0. -/
theorem test_decode_jmpif : decodeTableWord 32 0x0700005A = some (.jmpif ⟨true, false, true, false⟩ 0x0700) := by decide

theorem test_decode_clf : decodeTableWord 16 0x0060 = some .clf := by decide

theorem test_decode_in : decodeTableWord 16 0x0076 = some (.inp .addr .r2) := by decide

theorem test_decode_out : decodeTableWord 16 0x007B = some (.outp .data .r3) := by decide

/-- The high byte is ignored. -/
theorem test_decode_add : decodeTableWord 16 0x1286 = some (.add .r1 .r2) := by decide

/-- The one-register form SHR R0 is SHR R0,R0 (R104). -/
theorem test_decode_shr : decodeTableWord 16 0x0090 = some (.shr .r0 .r0) := by decide

/-- The one-register form SHL R1 is SHL R1,R1 (R104). -/
theorem test_decode_shl : decodeTableWord 16 0x00A5 = some (.shl .r1 .r1) := by decide

theorem test_decode_not : decodeTableWord 16 0x00B1 = some (.not .r0 .r1) := by decide

theorem test_decode_and : decodeTableWord 16 0x00C1 = some (.and .r0 .r1) := by decide

theorem test_decode_or : decodeTableWord 16 0x00D1 = some (.or .r0 .r1) := by decide

theorem test_decode_xor : decodeTableWord 16 0x00E6 = some (.xor .r1 .r2) := by decide

theorem test_decode_cmp : decodeTableWord 16 0x00FB = some (.cmp .r2 .r3) := by decide

theorem test_decode_dataUndef : decodeTableWord 32 0x0042002D = some (.dataUndef 3 .r1 0x0042) := by decide

theorem test_decode_jrUndef : decodeTableWord 16 0x0037 = some (.jrUndef 1 .r3) := by decide

theorem test_decode_jmpUndef : decodeTableWord 32 0x07000044 = some (.jmpUndef 4 0x0700) := by decide

theorem test_decode_jmpifEmpty : decodeTableWord 32 0x07000050 = some (.jmpifEmpty 0x0700) := by decide

theorem test_decode_clfUndef : decodeTableWord 16 0x0064 = some (.clfUndef 4) := by decide

/-- A row of two words whose operand word the host gives no bits: a second word of zeros. -/
theorem test_decode_short_row : decodeTableWord 16 0x0023 = some (.data .r3 0) := by decide

/-! ### Units: spec/95_test_vectors.md sections 2.3 and 2.4 -/

/-- A carry crosses bit 7. -/
theorem test_ripple_adder : (rippleSum 0x00FF 0x0001 false, rippleCarryOut 0xFFFF 0xFFFF true) = (0x0100, true) := by
  decide

/-- The comparison is unsigned. -/
theorem test_comparator_unsigned : rippleCompare 0x8000 0x7FFF = ⟨false, true⟩ := by decide

theorem test_shifters : (leftShift 0x8001 true, leftShiftOut 0x8001, rightShift 0x8001 true, rightShiftOut 0x5555) =
    (0x0003, true, 0xC000, true) := by decide

/-- 8x256, input 0x5A: line 90. -/
theorem test_decoder256 : (decoder256Line 0x5A 90, decoder256Line 0x5A 165) = (true, false) := by decide

/-- MAR = 0x1234 selects row 0x12 and column 0x34. -/
theorem test_grid : (cellSelected 0x1234 0x1234, cellSelected 0x1234 0x3412) = (true, false) := by decide

theorem test_alu_shr_corner : alu .shr 0x0002 0x0001 true = ⟨0x8001, ⟨false, true, false, false⟩⟩ := by decide

theorem test_alu_gates_xor : aluGates 6 0xFFFF 0x0000 true = ⟨0xFFFF, ⟨false, true, false, false⟩⟩ := by decide

/-! ### Instructions: spec/95_test_vectors.md section 2.7; the row is named -/

/-- M2: source and destination are one register. -/
theorem test_ld_same_register : after (machine [(0x0500, 0x000A), (0x0600, 0x1357)] 0 0 0x0600 0)
    (fun t => (t.reg .r2, side t)) = some (0x1357, 0x0501, 0x0600, 0x0501, ⟨false, false, false, false⟩) := by decide

/-- M3: it loads its own word. -/
theorem test_ld_own_word : after (machine [(0x0500, 0x0001)] 0x0500 0 0 0) (fun t => t.reg .r1) = some 0x0001 := by decide

/-- M7. -/
theorem test_st_same_register : after (machine [(0x0500, 0x001F)] 0 0 0 0x0700)
    (fun t => (t.load 0x0700, t.iar, t.mar)) = some (0x0700, 0x0501, 0x0700) := by decide

/-- M8: the flags are kept. -/
theorem test_st_keeps_flags : after (machine [(0x0500, 0x0011)] 0x0600 0xCAFE 0 0 ⟨true, true, true, true⟩)
    (fun t => (t.load 0x0600, t.flags)) = some (0xCAFE, ⟨true, true, true, true⟩) := by decide

/-- M9. -/
theorem test_data : after (machine [(0x0500, 0x0022), (0x0501, 0x1234)] 0 0 0 0)
    (fun t => (t.reg .r2, side t)) = some (0x1234, 0x0502, 0x0501, 0x0502, ⟨false, false, false, false⟩) := by decide

/-- M11: the literal of a DATA at 0xFFFF is the word at 0x0000. -/
theorem test_data_wraps : after { machine [(0xFFFF, 0x0021), (0x0000, 0x4321)] 0 0 0 0 with iar := 0xFFFF }
    (fun t => (t.reg .r1, t.iar, t.mar, t.acc)) = some (0x4321, 0x0001, 0x0000, 0x0001) := by decide

/-- M12. -/
theorem test_dataUndef : after (machine [(0x0500, 0x002D), (0x0501, 0x0042)] 0 0 0 0)
    (fun t => (t.reg .r1, t.iar)) = some (0x0042, 0x0502) := by decide

/-- A2: the carry-in is added. -/
theorem test_add_carry_in : after (machine [(0x0500, 0x0086)] 0 3 4 0 ⟨true, false, false, false⟩)
    (fun t => (t.reg .r2, t.acc, t.tmp, t.ct, t.flags)) =
      some (0x0008, 0x0008, 0x0004, true, ⟨false, false, false, false⟩) := by decide

/-- A3: carry, A-larger and zero. -/
theorem test_add_wraps : after (machine [(0x0500, 0x0081)] 0xFFFF 1 0 0)
    (fun t => (t.reg .r1, t.flags)) = some (0x0000, ⟨true, true, false, true⟩) := by decide

/-- A8: the shift-in is the carry. -/
theorem test_shr_carry_in : after (machine [(0x0500, 0x0090)] 0x8000 0 0 0 ⟨true, false, false, false⟩)
    (fun t => (t.reg .r0, t.flags)) = some (0xC000, ⟨false, false, true, false⟩) := by decide

/-- A10: it shifts R0 and writes R1. -/
theorem test_shr_two_registers : after (machine [(0x0500, 0x0091)] 4 0x0100 0 0)
    (fun t => (t.reg .r0, t.reg .r1, t.flags)) = some (4, 2, ⟨false, false, false, false⟩) := by decide

/-- A11. -/
theorem test_shl : after (machine [(0x0500, 0x00A5)] 0 0x8001 0 0)
    (fun t => (t.reg .r1, t.flags)) = some (0x0002, ⟨true, false, true, false⟩) := by decide

/-- A12. -/
theorem test_shl_carry_in : after (machine [(0x0500, 0x00AF)] 0 0 0 0x4001 ⟨true, false, false, false⟩)
    (fun t => (t.reg .r3, t.flags)) = some (0x8003, ⟨false, false, true, false⟩) := by decide

/-- A14. -/
theorem test_not : after (machine [(0x0500, 0x00B1)] 0 0x5555 0 0)
    (fun t => (t.reg .r1, t.tmp, t.flags)) = some (0xFFFF, 0x5555, ⟨false, false, false, false⟩) := by decide

/-- A15. -/
theorem test_not_zero : after (machine [(0x0500, 0x00BA)] 0 0 0xFFFF 0 ⟨true, false, false, false⟩)
    (fun t => (t.reg .r2, t.ct, t.flags)) = some (0x0000, true, ⟨false, false, true, true⟩) := by decide

/-- A16. -/
theorem test_and : after (machine [(0x0500, 0x00C1)] 0xF0F0 0x0FF0 0 0)
    (fun t => (t.reg .r1, t.flags)) = some (0x00F0, ⟨false, true, false, false⟩) := by decide

/-- A17. -/
theorem test_and_zero : after (machine [(0x0500, 0x00C1)] 0x00FF 0xFF00 0 0)
    (fun t => (t.reg .r1, t.flags)) = some (0x0000, ⟨false, false, false, true⟩) := by decide

/-- A18. -/
theorem test_or : after (machine [(0x0500, 0x00D1)] 0xF000 0x000F 0 0)
    (fun t => (t.reg .r1, t.flags)) = some (0xF00F, ⟨false, true, false, false⟩) := by decide

/-- A19: C is cleared. -/
theorem test_or_zero : after (machine [(0x0500, 0x00DF)] 0 0 0 0 ⟨true, true, false, false⟩)
    (fun t => (t.reg .r3, t.ct, t.flags)) = some (0, true, ⟨false, false, true, true⟩) := by decide

/-- A20. -/
theorem test_xor_self : after (machine [(0x0500, 0x00EA)] 0 0 0x1234 0)
    (fun t => (t.reg .r2, t.flags)) = some (0, ⟨false, false, true, true⟩) := by decide

/-- A21. -/
theorem test_xor : after (machine [(0x0500, 0x00E1)] 0xFF00 0x0FF0 0 0)
    (fun t => (t.reg .r1, t.flags)) = some (0xF0F0, ⟨false, true, false, false⟩) := by decide

/-- A24: no register is written, Z is 1. -/
theorem test_cmp_equal : after (machine [(0x0500, 0x00F1)] 0x1234 0x1234 0 0 ⟨true, false, false, false⟩)
    (fun t => (t.reg .r1, t.acc, t.flags)) = some (0x1234, 0, ⟨false, false, true, true⟩) := by decide

/-- A25: unsigned. -/
theorem test_cmp_unsigned : after (machine [(0x0500, 0x00FB)] 0 0 0xFFFF 0)
    (fun t => t.flags) = some ⟨false, true, false, true⟩ := by decide

/-- J1. -/
theorem test_jr : after (machine [(0x0500, 0x0033)] 0 0 0 0x0700)
    (fun t => (t.iar, t.mar, t.acc)) = some (0x0700, 0x0500, 0x0501) := by decide

/-- J3. -/
theorem test_jrUndef : after (machine [(0x0500, 0x0037)] 0 0 0 0x0700) (fun t => t.iar) = some 0x0700 := by decide

/-- J4. -/
theorem test_jmp : after (machine [(0x0500, 0x0040), (0x0501, 0x0700)] 0 0 0 0)
    (fun t => (t.iar, t.mar, t.acc)) = some (0x0700, 0x0501, 0x0501) := by decide

/-- J6. -/
theorem test_jmpUndef : after (machine [(0x0500, 0x0044), (0x0501, 0x0700)] 0 0 0 0)
    (fun t => (t.iar, t.mar, t.acc)) = some (0x0700, 0x0501, 0x0501) := by decide

/-- J8: JMPC, C = 0. -/
theorem test_jmpif_not_taken : after (machine [(0x0500, 0x0058), (0x0501, 0x0700)] 0 0 0 0 ⟨false, true, true, true⟩)
    side = some (0x0502, 0x0501, 0x0502, ⟨false, true, true, true⟩) := by decide

/-- J15: JMPAE, A alone set. -/
theorem test_jmpif_taken : after (machine [(0x0500, 0x0056), (0x0501, 0x0700)] 0 0 0 0 ⟨false, true, false, false⟩)
    side = some (0x0700, 0x0501, 0x0502, ⟨false, true, false, false⟩) := by decide

/-- J16: never taken. -/
theorem test_jmpifEmpty : after (machine [(0x0500, 0x0050), (0x0501, 0x0700)] 0 0 0 0 ⟨true, true, true, true⟩)
    side = some (0x0502, 0x0501, 0x0502, ⟨true, true, true, true⟩) := by decide

/-- F1, with CT = 1 before: CLF does not clear CT (spec/47_flags_and_io.md R330). -/
theorem test_clf : after { machine [(0x0500, 0x0060)] 0 0 0 0 ⟨true, true, true, true⟩ with ct := true }
    (fun t => (t.ct, side t)) = some (true, 0x0501, 0x0500, 0x0501, ⟨false, false, false, false⟩) := by decide

/-- F2. -/
theorem test_clfUndef : after (machine [(0x0500, 0x0064)] 0 0 0 0 ⟨true, false, true, false⟩)
    (fun t => t.flags) = some ⟨false, false, false, false⟩ := by decide

/-- F3: nothing drives the bus. -/
theorem test_in_no_device : after (machine [(0x0500, 0x0071)] 0 0x9999 0 0) (fun t => t.reg .r1) = some 0 := by decide

/-- F5. -/
theorem test_in_device :
    after (withDevices (machine [(0x0500, 0x0073)] 0 0 0 0 ⟨true, false, false, true⟩) [device 7 true [0x0041]])
      (fun t => (t.reg .r3, t.flags)) = some (0x0041, ⟨true, false, false, true⟩) := by decide

/-- F6. -/
theorem test_out_addr : after (machine [(0x0500, 0x007E)] 0 0 0x000F 0)
    (fun t => (t.env.events, t.iar)) = some ([⟨.addr, 0x000F⟩], 0x0501) := by decide

/-- An exclusive peripheral is deselected by another's address, and the addressed one selected (R335). -/
theorem test_out_addr_selects :
    after (withDevices (machine [(0x0500, 0x007E)] 0 0 0x000F 0) [device 7 true [], device 0x000F false []])
      (fun t => t.env.peripherals.map (·.active)) = some [false, true] := by decide

/-- Section 2.8, `ADD R1,R2` after step 5: the sum is in ACC, and R2 is not written yet. -/
theorem test_add_after_five_phases : afterPhases 5 (machine [(0x0500, 0x0086)] 0 3 4 0 ⟨true, false, false, false⟩)
    (fun t => (t.phase, t.acc, t.ct, t.flags, t.reg .r2)) =
      some (.p5, 0x0008, true, ⟨false, false, false, false⟩, 0x0004) := by decide

/-- Section 2.8, `JMPC 0x0700` after step 5: IAR has stepped over the second word. -/
theorem test_jmpif_after_five_phases :
    afterPhases 5 (machine [(0x0500, 0x0058), (0x0501, 0x0700)] 0 0 0 0 ⟨true, false, false, false⟩)
      (fun t => (t.iar, t.mar, t.acc)) = some (0x0502, 0x0501, 0x0502) := by decide

/-! ### The host's probe -/

theorem test_placed_word_is_what_runs :
    after (State.reset.withFetchWord 32 0x12340022) (fun t => t.reg .r2) = some 0x1234 := by decide

/-! ### Witnesses: the hypotheses of each statement, met together -/

/-- JMPC at 0x0500 with C = 1. -/
def jmpcState : State := machine [(0x0500, 0x0058), (0x0501, 0x0700)] 0 0 0 0 ⟨true, false, false, false⟩

/-- `ADD R1,R2` at 0x0500. -/
def addState : State := machine [(0x0500, 0x0086)] 0 3 4 0 ⟨true, false, false, false⟩

/-- `ST R0,R1` at 0x0500, to the next word. -/
def selfModifying : State := machine [(0x0500, 0x0011)] 0x0501 0x00E6 0 0

/-- `done: JMP done` at 0x0500. -/
def selfJump : State := machine [(0x0500, 0x0040), (0x0501, 0x0500)] 0 0 0 0

/-- `IN Data,R1` at 0x0500 with two active peripherals. -/
def collision : State := withDevices (machine [(0x0500, 0x0071)] 0 0 0 0) [device 7 true [], device 8 true []]

theorem witness_DecodeOfEncodeIsIdentity :
    (Instr.jmpif ⟨false, false, false, true⟩ 0x0700).wellFormed = true ∧ (Instr.dataUndef 3 .r3 0xFFFF).wellFormed = true ∧
      (Instr.jrUndef 1 .r0).wellFormed = true ∧ (Instr.jmpUndef 15 0).wellFormed = true ∧
      (Instr.clfUndef 1).wellFormed = true := by decide

theorem witness_EncodeOfDecodeClearsOnlyTheHighByte :
    decode [0xAB22, 0x1234, 0x0060] = .ok (.data .r2 0x1234, [0x0060]) := rfl

theorem witness_HighByteOfOpcodeWordIsIgnored : (0x7F86 : Word) &&& 0x00FF = 0x0086 &&& 0x00FF := by decide

theorem witness_EncodingsAreTheCanonicalOpcodes :
    7 = 4 * Reg.r1.code.toNat + Reg.r3.code.toNat ∧ 7 = 4 * IoSel.addr.code.toNat + Reg.r3.code.toNat := by decide

theorem witness_LatchCellSettlesInTwoPasses :
    (⟨true, true, false, true⟩ : LatchGates).holds false = true ∧
      (⟨true, true, true, false⟩ : LatchGates).holds true = true := by decide

theorem witness_RippleComparatorIsExact : (0x7FFF : Word).toNat < (0x8000 : Word).toNat := by decide

theorem witness_ShiftersAreExact : 1 ≤ 15 ∧ 15 ≤ 15 ∧ 14 ≤ 14 := by decide

theorem witness_DecoderIsOneHot : 7 < 2 ^ 3 ∧ 0 < 2 ^ 0 := by decide

theorem witness_HierarchicalDecoderIsFlat : 255 < 256 := by decide

theorem witness_GridSelectsExactlyTheAddressedCell : 65535 < 65536 := by decide

theorem witness_MemoryWriteIsTheGridsWrite : 65535 < 65536 := by decide

theorem witness_AtMostOneCoreDriver : (controlLines .p5 0x0071 Flags.clear false).ioClockEnable = true := by decide

theorem witness_IoLinesFollowPhaseAndInstruction :
    (ioLines .p4 0x007B).clockSet = true ∧ (ioLines .p5 0x0076).clockEnable = true ∧ Phase.p1 ≠ Phase.reset := by decide

theorem witness_PhaseStepWritesOnlyInItsPhases : afterPhases 1 addState (fun t => t.phase) = some .p1 := by decide

/-- From P4 of the IN, `Step()` faults. -/
theorem witness_PhaseStepFaultsOnlyAtInOfTwoPeripherals :
    phaseStep { collision with ir := 0x0071, phase := .p4 } = .fault (.multipleDrivers .p5 0x0071) ∧
      isAlu 0x0071 = false ∧ fieldClass 0x0071 = .io ∧ (0x0071 : Word).getLsbD 3 = false ∧
      2 ≤ collision.env.activeCount := ⟨rfl, by decide⟩

theorem witness_StepIsSixPhaseTransitions :
    jmpcState.phase.isBoundary = true ∧ after jmpcState (fun t => t.phase) = some .p6 := by decide

theorem witness_ResumingCompletesTheSameInstruction :
    jmpcState.phase.isBoundary = true ∧ afterPhases 1 jmpcState (fun t => t.phase) = some .p1 ∧
      afterPhases 5 jmpcState (fun t => t.phase) = some .p5 := by decide

theorem witness_StepRunsTheDecodedInstruction :
    addState.phase.isBoundary = true ∧
      decode [addState.load addState.iar, addState.load (addState.iar + 1)] = .ok (.add .r1 .r2, [0]) := ⟨rfl, rfl⟩

theorem witness_SequentialInstructionsAdvanceIar :
    (Instr.add .r1 .r2).isJr = false ∧ (Instr.add .r1 .r2).isJmp = false ∧ (Instr.add .r1 .r2).isJmpif = false ∧
      after addState (fun t => t.iar) = some 0x0501 := by decide

theorem witness_StStoresRbAndKeepsOtherWords :
    storeAddress (.st .r0 .r1) selfModifying ≠ some 0x0500 := by decide

theorem witness_DataLoadsTheLiteral : ∃ t : State, t = { addState with
    regs := addState.regs.set .r2 0x1234, mar := addState.iar, acc := addState.iar + 1, iar := addState.iar + 1,
    phase := .p6 } := ⟨_, rfl⟩

theorem witness_AddResultAndFlags : 8 = (addState.reg .r1).toNat + (addState.reg .r2).toNat + addState.flags.c.toNat := by
  decide

theorem witness_ShiftResultsAndFlags :
    32769 = (addState.reg .r1).toNat / 2 + 32768 * addState.flags.c.toNat ∧
      7 = 2 * (addState.reg .r1).toNat % 65536 + addState.flags.c.toNat := by decide

theorem witness_LogicResultsAndFlags : ∃ after : Word → State, ∀ out : Word, after out = { addState with
    regs := addState.regs.set .r2 out
    flags := ⟨false, decide ((addState.reg .r2).toNat < (addState.reg .r1).toNat),
      decide (addState.reg .r1 = addState.reg .r2), decide (out = 0)⟩
    acc := out
    tmp := addState.reg .r2
    ct := addState.flags.c
    phase := .p6 } := ⟨_, fun _ => rfl⟩

/-- Both clauses of JMPIF. -/
theorem witness_JmpifJumpsOnAnyNamedFlag :
    ((jmpcState.flags.c = true ∧ (⟨true, false, false, false⟩ : FlagMask).c = true)) ∧
      (addState.flags.c = false ∨ (⟨false, true, true, true⟩ : FlagMask).c = false) ∧ addState.flags.a = false ∧
      addState.flags.e = false ∧ addState.flags.z = false := by decide

/-- The four clauses of IN. -/
theorem witness_InLatchesThePeripheralsWord :
    addState.env.peripherals.filter (·.active) = [] ∧
      (withDevices addState [device 7 true [0x0041], device 8 false []]).env.peripherals.filter (·.active) =
        [device 7 true [0x0041]] ∧
      (withDevices addState [device 7 true []]).env.peripherals.filter (·.active) = [device 7 true []] ∧
      2 ≤ (collision.env.peripherals.filter (·.active)).length := by decide

theorem witness_PeripheralSelectionAndCapture :
    (device 7 true []).address ≠ 0 ∧ (8 : Word) ≠ 0 ∧ (8 : Word) ≠ (device 7 true []).address ∧
      (device 7 true []).policy = .exclusive ∧ { device 7 true [] with policy := .sticky }.policy = .sticky ∧
      (device 7 true []).active = true ∧ (device 7 false []).active = false := by decide

/-- Where selection and deselection meet: a peripheral at address 0, which the first clause leaves out, and the word 0. -/
theorem witness_PeripheralSelection_at_zero :
    ¬ (device 0 true []).address ≠ 0 ∧ ((device 0 true []).observe ⟨.addr, 0⟩).active = false ∧
      ((device 7 true []).observe ⟨.addr, 0⟩).active = false ∧
      ((device 7 false []).observe ⟨.addr, 7⟩).active = true := by decide

/-- The selecting OUT Addr is not captured by a peripheral inactive before it: log 13. -/
theorem witness_PeripheralCapture_at_selection :
    ({ device 7 false [] with capturesAddr := true, reg := 5 }.observe ⟨.addr, 7⟩).reg = 5 ∧
      ({ device 7 true [] with capturesAddr := true, reg := 5 }.observe ⟨.addr, 7⟩).reg = 7 ∧
      ({ device 7 true [] with capturesAddr := false, reg := 5 }.observe ⟨.addr, 7⟩).reg = 5 := by decide

theorem witness_EveryInstructionCompletes :
    exec (.inp .data .r1) collision = .fault (.multipleDrivers .p5 0x0000) := rfl

/-- ADD writes R2 and not R1. -/
theorem witness_OnlyTheDestinationRegisterChanges :
    (∃ t, exec (.add .r1 .r2) addState = .next t) ∧ (Instr.add .r1 .r2).dest ≠ some .r1 :=
  ⟨⟨_, rfl⟩, by decide⟩

theorem witness_FlagsChangeOnlyByAluAndClf :
    (∃ t, exec (.ld .r1 .r2) addState = .next t) ∧ (Instr.ld .r1 .r2).isAluInstr = false ∧
      (Instr.ld .r1 .r2).isClf = false := ⟨⟨_, rfl⟩, by decide, by decide⟩

theorem witness_MemoryChangesOnlyWhereStStores :
    (∃ t, exec (.st .r0 .r1) selfModifying = .next t) ∧ storeAddress (.st .r0 .r1) selfModifying ≠ some 0x0500 ∧
      storeAddress (.ld .r0 .r1) selfModifying ≠ some 0x0501 := ⟨⟨_, rfl⟩, by decide, by decide⟩

theorem witness_InternalRegistersChangeOnlyWhereTheTableSays :
    (∃ t, exec (.jr .r3) addState = .next t) ∧ (Instr.jr .r3).isAluInstr = false ∧ (Instr.jr .r3).stepsOver = false ∧
      (Instr.jr .r3).isJmp = false ∧ Instr.clf.isJr = false := ⟨⟨_, rfl⟩, by decide⟩

theorem witness_EveryStepKeepsMemoryCanonical :
    selfModifying.Inv ∧ after selfModifying (fun t => t.mem) = some [(0x0500, 0x0011), (0x0501, 0x00E6)] ∧
      afterPhases 1 selfModifying (fun t => t.phase) = some .p1 := by decide

/-- Two peripherals, one of them active. -/
theorem witness_ExclusivePeripheralsNeverCollide :
    (withDevices addState [device 7 true [], device 8 false []]).env.soleSelection := by decide

theorem witness_InternalPowerOnValuesAreUnobservable :
    addState.phase.isBoundary = true ∧ (nextInstr addState).isAluInstr = true ∧
      (∃ t, step addState = .next t) ∧ step collision = .fault (.multipleDrivers .p5 0x0071) :=
  ⟨rfl, rfl, ⟨_, rfl⟩, rfl⟩

theorem witness_StoreToNextInstructionIsExecuted :
    selfModifying.phase.isBoundary = true ∧
      decode [selfModifying.load selfModifying.iar, selfModifying.load (selfModifying.iar + 1)] =
        .ok (.st .r0 .r1, [0]) ∧
      selfModifying.reg .r0 = selfModifying.iar + 1 := ⟨rfl, rfl, rfl⟩

theorem witness_SelfJumpIsAFixedPoint : selfJump.atSelfJump = true := by decide

theorem witness_ClfMakesAddAndShiftsPlain : ∃ t, exec .clf jmpcState = .next t := ⟨_, rfl⟩

/-- The environment of the statement about IN: the active peripheral has lost one input, the other none. -/
theorem witness_InLatchesThePeripheralsWord_env :
    (withDevices addState [device 7 true [0x0041, 0x0042], device 8 false [0x0043]]).env.afterDrive =
      ⟨[device 7 true [0x0042], device 8 false [0x0043]], [], 1⟩ := by decide

/-- An image that runs past 0xFFFF (log 21), and a word it does not cover. -/
theorem witness_LoadedImageIsReadBack_wrap :
    (match loadImage (imageAt 0xFFFF [0x0040, 0x0500]) (machine [(0x0001, 0x1357)] 0 0 0 0) with
      | .next t => some (t.load 0xFFFF, t.load (0xFFFF + BitVec.ofNat 16 1), t.load 0x0000, t.load 0x0001)
      | .fault _ => none
      | .refused _ => none) = some (0x0040, 0x0500, 0x0500, 0x1357) := by decide

/-- An image that fills memory. -/
theorem witness_LoadedImageIsReadBack_full : (List.replicate 65536 (0x0060 : Word)).length ≤ 65536 :=
  Nat.le_of_eq List.length_replicate

/-- A host's writes at P6 and at power-on, and an attachment, which deselects. -/
theorem witness_LoadedImageIsReadBack_calls :
    (match hostWrite (.word 0xFFFF 0x1234) { addState with phase := .p6 } with
      | .next t => some (t.load 0xFFFF, t.load 0x0500)
      | .fault _ => none
      | .refused _ => none) = some (0x1234, 0x0086) ∧
    (match hostWrite (.reg .r3 0x0042) addState with
      | .next t => some (t.reg .r3, t.reg .r2)
      | .fault _ => none
      | .refused _ => none) = some (0x0042, 0x0004) ∧
    (match attach (device 8 true []) (withDevices addState [device 7 true []]) with
      | .next t => some t.env.peripherals
      | .fault _ => none
      | .refused _ => none) = some [device 7 true [], device 8 false []] := by decide

/-- Before the first `Step()`, inside an instruction, and at a boundary. -/
theorem witness_LoadedImageIsReadBack :
    State.reset.phase = .reset ∧ [(0x0040 : Word), 0x0500].length ≤ 65536 ∧ Phase.p3.isBoundary = false ∧
      Phase.p6 ≠ .reset ∧ Phase.p6.isBoundary = true := by decide

end Sys2Proof.Tests
end

/-! PROOFS of the family 10_state: what a completed meaning leaves, instruction by instruction (`Completes`); that TMP and
CT are not observed; the frame of the meanings; power-on; and what one `Step()` writes in each phase. -/

namespace Sys2Proof.Machine

/-! ### ALU instructions as a class -/

theorem exec_aluInstr (op : AluOp) (a b : Reg) (s : State) :
    exec (aluInstr op a b) s = .next (aluInstruction op a b s) := by
  cases op <;> rfl

theorem eq_aluInstr_of_isAluInstr {i : Instr} (h : i.isAluInstr = true) : ∃ op a b, i = aluInstr op a b := by
  cases i with
  | add a b => exact ⟨.add, a, b, rfl⟩
  | shr a b => exact ⟨.shr, a, b, rfl⟩
  | shl a b => exact ⟨.shl, a, b, rfl⟩
  | not a b => exact ⟨.not, a, b, rfl⟩
  | and a b => exact ⟨.and, a, b, rfl⟩
  | or a b => exact ⟨.or, a, b, rfl⟩
  | xor a b => exact ⟨.xor, a, b, rfl⟩
  | cmp a b => exact ⟨.cmp, a, b, rfl⟩
  | _ => cases h

@[simp] theorem isAluInstr_aluInstr (op : AluOp) (a b : Reg) : (aluInstr op a b).isAluInstr = true := by
  cases op <;> rfl

@[simp] theorem length_encode_aluInstr (op : AluOp) (a b : Reg) : (encode (aluInstr op a b)).length = 1 := by
  cases op <;> rfl

theorem dest_aluInstr (op : AluOp) (a b : Reg) :
    (aluInstr op a b).dest = if aluWritesRegister op then some b else none := by
  cases op <;> rfl

/-! ### The state a meaning leaves -/

/-- `Completes s i t`: the meaning of `i` on `s` completes and leaves `t`, written through the operations whose
equations stand in Laws/Ops. `exec_next_iff` ties it to `exec`. -/
inductive Completes (s : State) : Instr → State → Prop
  | ld (a b : Reg) :
    Completes s (.ld a b) { s with mar := s.reg a, regs := s.regs.set b (s.load (s.reg a)), phase := .p6 }
  | st (a b : Reg) :
    Completes s (.st a b) { s with mar := s.reg a, mem := s.mem.write (s.reg a).toNat (s.reg b), phase := .p6 }
  | data (b : Reg) (lit : Word) : Completes s (.data b lit) (loadLiteral b lit s)
  | dataUndef (ign : BitVec 2) (b : Reg) (lit : Word) : Completes s (.dataUndef ign b lit) (loadLiteral b lit s)
  | jr (b : Reg) : Completes s (.jr b) (jumpToRegister b s)
  | jrUndef (ign : BitVec 2) (b : Reg) : Completes s (.jrUndef ign b) (jumpToRegister b s)
  | jmp (addr : Word) : Completes s (.jmp addr) (jumpToAddress addr s)
  | jmpUndef (ign : BitVec 4) (addr : Word) : Completes s (.jmpUndef ign addr) (jumpToAddress addr s)
  | jmpif (mask : FlagMask) (addr : Word) :
    Completes s (.jmpif mask addr)
      { s with
        mar := s.iar
        acc := s.iar + 1
        iar := if s.flags.cond mask then addr else s.iar + 1
        phase := .p6 }
  | jmpifEmpty (addr : Word) :
    Completes s (.jmpifEmpty addr) { s with mar := s.iar, acc := s.iar + 1, iar := s.iar + 1, phase := .p6 }
  | clf : Completes s .clf (clearFlags s)
  | clfUndef (ign : BitVec 4) : Completes s (.clfUndef ign) (clearFlags s)
  | inp (da : IoSel) (b : Reg) (v : Word) (hbus : mainBus (s.env.drive da) = some v) :
    Completes s (.inp da b) { s with regs := s.regs.set b v, env := s.env.afterDrive, phase := .p6 }
  | outp (da : IoSel) (b : Reg) :
    Completes s (.outp da b) { s with env := s.env.observe ⟨da, s.reg b⟩, phase := .p6 }
  | alu (op : AluOp) (a b : Reg) : Completes s (aluInstr op a b) (aluInstruction op a b s)

/-- COND is 0 for the empty mask, whatever the flags (spec/46_control_transfer.md R313). -/
theorem Flags.cond_empty (f : Flags) : f.cond ⟨false, false, false, false⟩ = false := by
  simp [Flags.cond]

theorem jumpIf_empty_eq (addr : Word) (s : State) :
    jumpIf ⟨false, false, false, false⟩ addr s =
      { s with mar := s.iar, acc := s.iar + 1, iar := s.iar + 1, phase := .p6 } := by
  simp [jumpIf_eq, Flags.cond_empty]

theorem exec_inp_of_bus {s : State} {da : IoSel} {v : Word} (b : Reg) (h : mainBus (s.env.drive da) = some v) :
    exec (.inp da b) s = .next { s with regs := s.regs.set b v, env := s.env.afterDrive, phase := .p6 } := by
  simp [exec, execInp, h, finish, State.setReg, State.setEnv, State.setPhase]

theorem exec_inp_of_collision {s : State} {da : IoSel} (b : Reg) (h : mainBus (s.env.drive da) = none) :
    exec (.inp da b) s = .fault (.multipleDrivers .p5 s.ir) := by
  simp [exec, execInp, h]

theorem exec_of_completes {s t : State} {i : Instr} (h : Completes s i t) : exec i s = .next t := by
  cases h with
  | jmpif mask addr => exact congrArg _ (jumpIf_eq mask addr s)
  | jmpifEmpty addr => exact congrArg _ (jumpIf_empty_eq addr s)
  | inp da b v hbus => exact exec_inp_of_bus b hbus
  | alu op a b => exact exec_aluInstr op a b s
  | _ => rfl

/-- Every instruction but an IN with two drivers on the bus has a state it leaves. -/
theorem exists_completes (i : Instr) (s : State) :
    (∃ t, Completes s i t) ∨ ∃ da b, i = .inp da b ∧ mainBus (s.env.drive da) = none := by
  cases i with
  | inp da b =>
    cases hbus : mainBus (s.env.drive da) with
    | some v => exact .inl ⟨_, .inp da b v hbus⟩
    | none => exact .inr ⟨da, b, rfl, hbus⟩
  | ld a b => exact .inl ⟨_, .ld a b⟩
  | st a b => exact .inl ⟨_, .st a b⟩
  | data b lit => exact .inl ⟨_, .data b lit⟩
  | jr b => exact .inl ⟨_, .jr b⟩
  | jmp addr => exact .inl ⟨_, .jmp addr⟩
  | jmpif mask addr => exact .inl ⟨_, .jmpif mask addr⟩
  | clf => exact .inl ⟨_, .clf⟩
  | outp da b => exact .inl ⟨_, .outp da b⟩
  | add a b => exact .inl ⟨_, .alu .add a b⟩
  | shr a b => exact .inl ⟨_, .alu .shr a b⟩
  | shl a b => exact .inl ⟨_, .alu .shl a b⟩
  | not a b => exact .inl ⟨_, .alu .not a b⟩
  | and a b => exact .inl ⟨_, .alu .and a b⟩
  | or a b => exact .inl ⟨_, .alu .or a b⟩
  | xor a b => exact .inl ⟨_, .alu .xor a b⟩
  | cmp a b => exact .inl ⟨_, .alu .cmp a b⟩
  | dataUndef ign b lit => exact .inl ⟨_, .dataUndef ign b lit⟩
  | jrUndef ign b => exact .inl ⟨_, .jrUndef ign b⟩
  | jmpUndef ign addr => exact .inl ⟨_, .jmpUndef ign addr⟩
  | jmpifEmpty addr => exact .inl ⟨_, .jmpifEmpty addr⟩
  | clfUndef ign => exact .inl ⟨_, .clfUndef ign⟩

/-- All that an instruction that completes can have done. -/
theorem exec_next_iff {i : Instr} {s t : State} : exec i s = .next t ↔ Completes s i t := by
  refine ⟨fun h => ?_, exec_of_completes⟩
  obtain ⟨u, hu⟩ | ⟨da, b, rfl, hbus⟩ := exists_completes i s
  · rw [exec_of_completes hu] at h
    cases h
    exact hu
  · rw [exec_inp_of_collision b hbus] at h
    cases h

/-- The only fault of a meaning: an IN with two drivers on the bus (decision D18). -/
theorem exec_fault_iff {i : Instr} {s : State} {f : Fault} :
    exec i s = .fault f ↔
      (∃ da b, i = .inp da b ∧ mainBus (s.env.drive da) = none) ∧ f = .multipleDrivers .p5 s.ir := by
  constructor
  · intro h
    obtain ⟨u, hu⟩ | hin := exists_completes i s
    · rw [exec_of_completes hu] at h
      cases h
    · obtain ⟨da, b, rfl, hbus⟩ := hin
      rw [exec_inp_of_collision b hbus] at h
      cases h
      exact ⟨⟨da, b, rfl, hbus⟩, rfl⟩
  · rintro ⟨⟨da, b, rfl, hbus⟩, rfl⟩
    exact exec_inp_of_collision b hbus

/-! ### TMP and CT are not read -/

theorem aluInstruction_of_tmp_ct (op : AluOp) (a b : Reg) (s : State) (tmp : Word) (ct : Bool) :
    aluInstruction op a b { s with tmp := tmp, ct := ct } = aluInstruction op a b s := by
  simp only [aluInstruction_eq]
  rfl

/-- An ALU instruction writes TMP and CT before it reads them (spec/10_state.md R48). -/
theorem exec_alu_of_tmp_ct {i : Instr} (h : i.isAluInstr = true) (s : State) (tmp : Word) (ct : Bool) :
    exec i { s with tmp := tmp, ct := ct } = exec i s := by
  obtain ⟨op, a, b, rfl⟩ := eq_aluInstr_of_isAluInstr h
  simp only [exec_aluInstr, aluInstruction_of_tmp_ct]

/-- Every other instruction neither reads TMP and CT nor writes them (spec/10_state.md R37, R40). -/
theorem Completes.of_tmp_ct {i : Instr} {s t : State} (h : Completes s i t) (hi : i.isAluInstr = false) (tmp : Word)
    (ct : Bool) : Completes { s with tmp := tmp, ct := ct } i { t with tmp := tmp, ct := ct } := by
  cases h with
  | ld a b => exact .ld a b
  | st a b => exact .st a b
  | data b lit => exact .data b lit
  | dataUndef ign b lit => exact .dataUndef ign b lit
  | jr b => exact .jr b
  | jrUndef ign b => exact .jrUndef ign b
  | jmp addr => exact .jmp addr
  | jmpUndef ign addr => exact .jmpUndef ign addr
  | jmpif mask addr => exact .jmpif mask addr
  | jmpifEmpty addr => exact .jmpifEmpty addr
  | clf => exact .clf
  | clfUndef ign => exact .clfUndef ign
  | inp da b v hbus => exact .inp da b v hbus
  | outp da b => exact .outp da b
  | alu op a b => simp at hi

/-- A meaning ends the same way whatever TMP and CT hold, and leaves the same state but for them. -/
theorem exec_next_of_tmp_ct {i : Instr} {s t : State} (h : exec i s = .next t) (tmp : Word) (ct : Bool) :
    ∃ tmp' ct', exec i { s with tmp := tmp, ct := ct } = .next { t with tmp := tmp', ct := ct' } := by
  cases hi : i.isAluInstr with
  | true => exact ⟨t.tmp, t.ct, (exec_alu_of_tmp_ct hi s tmp ct).trans h⟩
  | false => exact ⟨tmp, ct, exec_next_iff.2 ((exec_next_iff.1 h).of_tmp_ct hi tmp ct)⟩

theorem exec_fault_of_tmp_ct {i : Instr} {s : State} {f : Fault} (h : exec i s = .fault f) (tmp : Word) (ct : Bool) :
    exec i { s with tmp := tmp, ct := ct } = .fault f := by
  have hfault := exec_fault_iff.1 h
  exact exec_fault_iff.2 hfault

/-- P1 to P3 write IR, MAR and ACC before anything reads them (spec/10_state.md R48). -/
theorem fetch_withInternals (s : State) (ir mar acc tmp : Word) (ct : Bool) :
    fetch (s.withInternals ir mar acc tmp ct) = { fetch s with tmp := tmp, ct := ct } := rfl

/-- The step of a boundary state with other internal registers runs the same instruction, on a fetched state in which
only TMP and CT differ. -/
theorem step_withInternals {s : State} (hs : s.phase.isBoundary = true) (ir mar acc tmp : Word) (ct : Bool) :
    step (s.withInternals ir mar acc tmp ct) = exec (nextInstr s) { fetch s with tmp := tmp, ct := ct } :=
  step_boundary (s := s.withInternals ir mar acc tmp ct) hs

/-- Settles O55: the fetch writes IR, MAR and ACC first, and no meaning's outcome depends on TMP and CT. -/
theorem internalPowerOnValuesAreUnobservable : Obligations.InternalPowerOnValuesAreUnobservable := by
  intro s ir mar acc tmp ct hs
  rw [step_withInternals hs, step_boundary hs]
  exact ⟨fun t h => exec_next_of_tmp_ct h tmp ct, fun f h => exec_fault_of_tmp_ct h tmp ct,
    fun t h hi => (exec_alu_of_tmp_ct hi _ tmp ct).trans h⟩

/-! ### The frame of the meanings -/

/-- A meaning writes no general register but the one it names (spec/10_state.md R32). -/
theorem Completes.reg_of_not_dest {i : Instr} {s t : State} (h : Completes s i t) {r : Reg} (hr : i.dest ≠ some r) :
    t.reg r = s.reg r := by
  have written : ∀ {b : Reg} {v : Word}, some b ≠ some r → (s.regs.set b v).get r = s.regs.get r := by
    intro b v hb
    rw [RegFile.get_set, if_neg fun e => hb (congrArg some e.symm)]
  cases h with
  | ld a b => exact written hr
  | data b lit => exact written hr
  | dataUndef ign b lit => exact written hr
  | inp da b v hbus => exact written hr
  | alu op a b =>
    rw [dest_aluInstr] at hr
    rw [aluInstruction_eq]
    cases hw : aluWritesRegister op with
    | true => exact written (by simpa [hw] using hr)
    | false => rfl
  | _ => rfl

/-- Settles O47, by the register frame of every meaning. -/
theorem onlyTheDestinationRegisterChanges : Obligations.OnlyTheDestinationRegisterChanges :=
  fun _ _ _ _ h hr => (exec_next_iff.1 h).reg_of_not_dest hr

/-- IR is written by the fetch alone, `clk` by the half-cycles of a `Step()` alone (spec/10_state.md R34, R42). -/
theorem Completes.ir_clk_eq {i : Instr} {s t : State} (h : Completes s i t) : t.ir = s.ir ∧ t.clk = s.clk := by
  cases h with
  | alu op a b => rw [aluInstruction_eq]; exact ⟨rfl, rfl⟩
  | _ => exact ⟨rfl, rfl⟩

theorem Completes.acc_eq {i : Instr} {s t : State} (h : Completes s i t) (halu : i.isAluInstr = false)
    (hover : i.stepsOver = false) : t.acc = s.acc := by
  cases h with
  | alu op a b => simp at halu
  | data b lit => cases hover
  | dataUndef ign b lit => cases hover
  | jmpif mask addr => cases hover
  | jmpifEmpty addr => cases hover
  | _ => rfl

theorem Completes.mar_eq {i : Instr} {s t : State} (h : Completes s i t) (hover : i.stepsOver = false)
    (hjmp : i.isJmp = false) (hld : ∀ a b, i ≠ .ld a b) (hst : ∀ a b, i ≠ .st a b) : t.mar = s.mar := by
  cases h with
  | ld a b => exact absurd rfl (hld a b)
  | st a b => exact absurd rfl (hst a b)
  | data b lit => cases hover
  | dataUndef ign b lit => cases hover
  | jmpif mask addr => cases hover
  | jmpifEmpty addr => cases hover
  | jmp addr => cases hjmp
  | jmpUndef ign addr => cases hjmp
  | alu op a b => rw [aluInstruction_eq]
  | _ => rfl

theorem Completes.iar_eq {i : Instr} {s t : State} (h : Completes s i t) (hover : i.stepsOver = false)
    (hjmp : i.isJmp = false) (hjr : i.isJr = false) : t.iar = s.iar := by
  cases h with
  | data b lit => cases hover
  | dataUndef ign b lit => cases hover
  | jmpif mask addr => cases hover
  | jmpifEmpty addr => cases hover
  | jmp addr => cases hjmp
  | jmpUndef ign addr => cases hjmp
  | jr b => cases hjr
  | jrUndef ign b => cases hjr
  | alu op a b => rw [aluInstruction_eq]
  | _ => rfl

theorem Completes.env_eq {i : Instr} {s t : State} (h : Completes s i t) (hinp : ∀ da b, i ≠ .inp da b)
    (houtp : ∀ da b, i ≠ .outp da b) : t.env = s.env := by
  cases h with
  | inp da b v hbus => exact absurd rfl (hinp da b)
  | outp da b => exact absurd rfl (houtp da b)
  | alu op a b => rw [aluInstruction_eq]
  | _ => rfl

/-- Settles O50, from the frame of each field. -/
theorem internalRegistersChangeOnlyWhereTheTableSays : Obligations.InternalRegistersChangeOnlyWhereTheTableSays := by
  intro i s t h
  have hc : Completes s i t := exec_next_iff.1 h
  obtain ⟨hir, hclk⟩ := hc.ir_clk_eq
  exact ⟨hir, hclk, hc.acc_eq, hc.mar_eq, hc.iar_eq, hc.env_eq⟩

/-! ### IAR of the instructions that do not jump -/

/-- On the fetched state IAR is A + 1, and only an instruction that has a second word moves it once more. -/
theorem Completes.iar_sequential {i : Instr} {s t : State} (h : Completes s i t) (hjr : i.isJr = false)
    (hjmp : i.isJmp = false) (hjmpif : i.isJmpif = false) :
    t.iar = if (encode i).length = 2 then s.iar + 1 else s.iar := by
  cases h with
  | jr b => cases hjr
  | jrUndef ign b => cases hjr
  | jmp addr => cases hjmp
  | jmpUndef ign addr => cases hjmp
  | jmpif mask addr => cases hjmpif
  | alu op a b => simp [aluInstruction_eq]
  | _ => rfl

/-- Settles O32: the fetch leaves IAR at A + 1, and the meaning adds 1 when there is a second word. -/
theorem sequentialInstructionsAdvanceIar : Obligations.SequentialInstructionsAdvanceIar := by
  intro s t i rest hs hdec hjr hjmp hjmpif hstep
  have hi : nextInstr s = i := (decode_two hdec).symm
  rw [step_boundary hs, hi] at hstep
  have hiar := (exec_next_iff.1 hstep).iar_sequential hjr hjmp hjmpif
  rw [hiar, fetch_eq]
  split
  · exact BitVec.add_assoc s.iar 1 1
  · rfl

/-! ### Power-on -/

/-- Settles O53: memory and the list of peripherals are empty at reset. -/
theorem resetMeetsTheInvariants : Obligations.ResetMeetsTheInvariants :=
  ⟨reset_mem_wf, by decide, rfl⟩

/-- Settles O54, by computation of `build` for any draw. -/
theorem powerOnState : Obligations.PowerOnState := by
  refine ⟨fun p => ?_, rfl, rfl, fun r => ?_, rfl, fun addr => ?_⟩
  · exact ⟨rfl, rfl, rfl, rfl, rfl, rfl, rfl, rfl, rfl, rfl, rfl, rfl, rfl, fun addr => rfl⟩
  · cases r <;> rfl
  · rfl

/-! ### The Set lines of a phase -/

section SetLines

variable {p : Phase} {ir : Word} {f : Flags} {ct : Bool}

theorem phase_of_regBSet (h : (controlLines p ir f ct).regBSet = true) : p = .p5 ∨ p = .p6 := by
  simp only [controlLines, Bool.or_eq_true, Bool.and_eq_true, beq_iff_eq] at h
  exact h.imp And.left fun h6 => h6.1.1

theorem phase_of_iarSet (h : (controlLines p ir f ct).iarSet = true) : p ≠ .p1 ∧ p ≠ .p2 := by
  constructor
  · rintro rfl
    simp [controlLines_p1] at h
  · rintro rfl
    simp [controlLines_p2] at h

theorem controlLines_irSet : (controlLines p ir f ct).irSet = true ↔ p = .p2 := by
  simp [controlLines]

theorem phase_of_marSet (h : (controlLines p ir f ct).marSet = true) : p = .p1 ∨ p = .p4 := by
  simp only [controlLines, Bool.or_eq_true, Bool.and_eq_true, beq_iff_eq] at h
  exact h.imp_right And.left

theorem controlLines_accSet : (controlLines p ir f ct).accSet = true ↔
    p = .p1 ∨ (p = .p4 ∧ isAlu ir = false ∧ (fieldClass ir = .data ∨ fieldClass ir = .jmpif)) ∨
      (p = .p5 ∧ isAlu ir = true) := by
  simp [controlLines, decodeSignals, classLine, ← and_or_left, or_assoc]

theorem controlLines_tmpSet : (controlLines p ir f ct).tmpSet = true ↔ p = .p4 ∧ isAlu ir = true := by
  simp [controlLines, decodeSignals]

theorem controlLines_ctSet : (controlLines p ir f ct).ctSet = true ↔ p = .p4 ∧ isAlu ir = true := by
  simp [controlLines, decodeSignals]

theorem controlLines_flagsSet : (controlLines p ir f ct).flagsSet = true ↔
    (p = .p4 ∧ isAlu ir = false ∧ fieldClass ir = .clf) ∨ (p = .p5 ∧ isAlu ir = true) := by
  simp [controlLines, decodeSignals, classLine]

theorem controlLines_ramSet : (controlLines p ir f ct).ramSet = true ↔
    p = .p5 ∧ isAlu ir = false ∧ fieldClass ir = .st := by
  simp [controlLines, decodeSignals, classLine]

theorem controlLines_ioClockSet : (controlLines p ir f ct).ioClockSet = true ↔
    p = .p4 ∧ isAlu ir = false ∧ fieldClass ir = .io ∧ ir.getLsbD 3 = true := by
  simp [controlLines, decodeSignals, classLine, bit, and_assoc]

theorem controlLines_ioClockEnable : (controlLines p ir f ct).ioClockEnable = true ↔
    p = .p5 ∧ isAlu ir = false ∧ fieldClass ir = .io ∧ ir.getLsbD 3 = false := by
  simp [controlLines, decodeSignals, classLine, bit, and_assoc]

end SetLines

/-! ### What a change by the set pass or the exchange shows -/

theorem regBSet_of_latch_regs_ne {c : Control} {bus : Word} {s : State} (h : (latch c bus s).regs ≠ s.regs) :
    c.regBSet = true := by
  by_contra hno
  simp [latch, Control.regSet, hno] at h

theorem ioClock_of_exchange_ne {c : Control} {da : IoSel} {bus : Word} {e : Env} (h : exchange c da bus e ≠ e) :
    c.ioClockEnable = true ∨ c.ioClockSet = true := by
  by_contra hno
  obtain ⟨hen, hset⟩ := not_or.1 hno
  simp [exchange, hen, hset] at h

/-! ### One `Step()` of the host -/

/-- The lines the control network drives in the phase the next `Step()` runs. -/
abbrev State.nextControl (s : State) : Control := controlLines s.phase.next s.ir s.flags s.ct

/-- All that a `Step()` that completes can have done: latched the bus, exchanged with the peripherals and moved the
stepper (spec/43_sequencer.md R215). -/
theorem phaseStep_next {s t : State} (h : phaseStep s = .next t) :
    ∃ bus, mainBus (coreDrivers s.nextControl s ++ ioDrivers s.nextControl s) = some bus ∧
      t = ((latch s.nextControl bus s).setEnv (exchange s.nextControl (fieldDa s.ir) bus s.env)).setPhase
        s.phase.next := by
  cases hbus : mainBus (coreDrivers s.nextControl s ++ ioDrivers s.nextControl s) with
  | none => simp [phaseStep, hbus] at h
  | some bus =>
    rw [phaseStep_of_bus rfl rfl hbus] at h
    cases h
    exact ⟨bus, rfl, rfl⟩

/-- Settles O27: a field that changed had its Set line asserted, and that names the phase. -/
theorem phaseStepWritesOnlyInItsPhases : Obligations.PhaseStepWritesOnlyInItsPhases := by
  intro s t h
  obtain ⟨bus, -, rfl⟩ := phaseStep_next h
  refine ⟨rfl, rfl, fun hregs => ?regs, fun hiar => ?iar, fun hir => ?ir, fun hmar => ?mar, fun hacc => ?acc,
    fun htmp => ?tmp, fun hflags => ?flags, fun hmem => ?mem, fun henv => ?env⟩
  case regs => exact phase_of_regBSet (regBSet_of_latch_regs_ne hregs)
  case iar => exact phase_of_iarSet (ite_ne_right_iff.1 hiar).1
  case ir => exact controlLines_irSet.1 (ite_ne_right_iff.1 hir).1
  case mar => exact phase_of_marSet (ite_ne_right_iff.1 hmar).1
  case acc => exact controlLines_accSet.1 (ite_ne_right_iff.1 hacc).1
  case tmp =>
    obtain htmp | hct := htmp
    · exact controlLines_tmpSet.1 (ite_ne_right_iff.1 htmp).1
    · exact controlLines_ctSet.1 (ite_ne_right_iff.1 hct).1
  case flags => exact controlLines_flagsSet.1 (ite_ne_right_iff.1 hflags).1
  case mem => exact controlLines_ramSet.1 (ite_ne_right_iff.1 hmem).1
  case env =>
    obtain hen | hset := ioClock_of_exchange_ne henv
    · obtain ⟨hp, halu, hio, h3⟩ := controlLines_ioClockEnable.1 hen
      exact ⟨halu, hio, .inr ⟨hp, h3⟩⟩
    · obtain ⟨hp, halu, hio, h3⟩ := controlLines_ioClockSet.1 hset
      exact ⟨halu, hio, .inl ⟨hp, h3⟩⟩

end Sys2Proof.Machine

/-! PROOFS of the family 20_memory: the grid's decoders and cells; what a meaning and a phase write of memory, and that
both keep its canonical form; a store into the instruction stream; and the host's calls. -/

namespace Sys2Proof.Machine

/-! ### The grid -/

theorem decoderLine_iff_bits {k : Nat} {sel : BitVec k} {j : Nat} :
    decoderLine sel j = true ↔ ∀ i, i < k → j.testBit i = sel.getLsbD i := by
  simp only [decoderLine, gateAndN_eq_all, gateNot_eq, List.all_map, List.all_eq_true, List.mem_range,
    Function.comp_apply, id_eq]
  refine forall₂_congr fun i _ => ?_
  cases j.testBit i <;> simp

/-- Line `j` of a decoder is 1 exactly when the select lines hold `j` (spec/41_functional_units.md R160). -/
theorem decoderLine_iff {k : Nat} {sel : BitVec k} {j : Nat} (hj : j < 2 ^ k) :
    decoderLine sel j = true ↔ j = sel.toNat := by
  rw [decoderLine_iff_bits]
  constructor
  · intro h
    have hsel : BitVec.ofNat k j = sel := BitVec.eq_of_getLsbD_eq fun i hi => by
      rw [BitVec.getLsbD_ofNat, decide_eq_true hi, Bool.true_and, h i hi]
    rw [← hsel, BitVec.toNat_ofNat, Nat.mod_eq_of_lt hj]
  · rintro rfl i -
    rfl

/-- The line of the hierarchical decoder, from the lines of its two halves (spec/41_functional_units.md R162). -/
theorem decoder256Line_iff {sel : BitVec 8} {n : Nat} (hn : n < 256) :
    decoder256Line sel n = true ↔ n = sel.toNat := by
  have hsel := sel.isLt
  have hhigh : (sel.extractLsb' 4 4).toNat = sel.toNat / 16 := by
    rw [BitVec.extractLsb'_toNat, Nat.shiftRight_eq_div_pow]
    omega
  have hlow : (sel.extractLsb' 0 4).toNat = sel.toNat % 16 := by
    rw [BitVec.extractLsb'_toNat, Nat.shiftRight_zero]
  rw [decoder256Line, gateAnd_eq, Bool.and_eq_true, decoderLine_iff (by omega), decoderLine_iff (by omega), hhigh, hlow]
  omega

/-- The cell whose row and column lines are both 1 is the one at address MAR (spec/20_memory.md R61). -/
theorem cellSelected_iff {mar : Word} {n : Nat} (hn : n < 65536) : cellSelected mar n = true ↔ n = mar.toNat := by
  have hmar := mar.isLt
  have hrow : (gridRow mar).toNat = mar.toNat / 256 := by
    rw [gridRow, BitVec.extractLsb'_toNat, Nat.shiftRight_eq_div_pow]
    omega
  have hcolumn : (gridColumn mar).toNat = mar.toNat % 256 := by
    rw [gridColumn, BitVec.extractLsb'_toNat, Nat.shiftRight_zero]
  rw [cellSelected, gateAnd_eq, Bool.and_eq_true, decoder256Line_iff (by omega), decoder256Line_iff (by omega), hrow,
    hcolumn]
  omega

/-- The word register's function (spec/40_storage_cells.md R130). -/
theorem wordRegisterNext_eq (q input : Word) (set : Bool) :
    wordRegisterNext q input set = if set then input else q := by
  refine word_ext fun k hk => ?_
  rw [wordRegisterNext, bit_wordOfBits]
  cases set <;> simp [latchNext, hk]

theorem cellNext_eq {set : Bool} {mar bus : Word} {n : Nat} {q : Word} (hn : n < 65536) :
    cellNext set mar bus n q = if set = true ∧ n = mar.toNat then bus else q := by
  rw [cellNext, wordRegisterNext_eq, gateAnd_eq]
  simp only [Bool.and_eq_true, cellSelected_iff hn, and_comm]

/-- Settles O18: a write changes the read of one address, a phase of the grid the word of the one selected cell. -/
theorem memoryWriteIsTheGridsWrite : Obligations.MemoryWriteIsTheGridsWrite := by
  intro m mar bus set n hn
  rw [cellNext_eq hn]
  cases set with
  | true => simp [Memory.read_write]
  | false => simp

/-! ### What a meaning writes of memory -/

theorem State.load_eq_of_mem_eq {s t : State} (h : t.mem = s.mem) (x : Word) : t.load x = s.load x :=
  congrArg (Memory.read · x.toNat) h

/-- A meaning leaves memory alone, or it is ST's and stores R[b] at R[a] (spec/44_memory_instructions.md R261). -/
theorem Completes.mem_cases {i : Instr} {s t : State} (h : Completes s i t) :
    t.mem = s.mem ∨ ∃ a b, i = .st a b ∧ t.mem = (s.store (s.reg a) (s.reg b)).mem := by
  cases h with
  | st a b => exact .inr ⟨a, b, rfl, rfl⟩
  | alu op a b => exact .inl (by rw [aluInstruction_eq])
  | _ => exact .inl rfl

theorem Completes.phase_eq {i : Instr} {s t : State} (h : Completes s i t) : t.phase = .p6 := by
  cases h with
  | alu op a b => rw [aluInstruction_eq]
  | _ => rfl

/-- Settles O49: a word other than the one ST stores to is kept by the store, and no other meaning stores. -/
theorem memoryChangesOnlyWhereStStores : Obligations.MemoryChangesOnlyWhereStStores := by
  intro i s t addr h haddr
  obtain hmem | ⟨a, b, rfl, hmem⟩ := (exec_next_iff.1 h).mem_cases
  · exact State.load_eq_of_mem_eq hmem addr
  · have hne : addr ≠ s.reg a := fun e => haddr (congrArg some e.symm)
    rw [State.load_eq_of_mem_eq hmem, State.load_store, if_neg hne]

/-! ### The canonical form -/

theorem Completes.inv {i : Instr} {s t : State} (h : Completes s i t) (hs : s.Inv) : t.Inv := by
  obtain hmem | ⟨a, b, -, hmem⟩ := h.mem_cases
  · rwa [State.Inv, hmem]
  · rw [State.Inv, hmem]
    exact State.store_wf s _ _ hs

/-- The set pass writes memory at MAR or not at all (spec/20_memory.md R64). -/
theorem latch_inv (c : Control) (bus : Word) {s : State} (hs : s.Inv) : (latch c bus s).Inv := by
  cases hset : c.ramSet with
  | true => simpa [latch, hset] using State.store_wf s s.mar bus hs
  | false => simpa [latch, hset] using hs

theorem phaseStep_inv {s t : State} (hs : s.Inv) (h : phaseStep s = .next t) : t.Inv := by
  obtain ⟨bus, -, rfl⟩ := phaseStep_next h
  exact latch_inv s.nextControl bus hs

theorem phaseStep_phase {s t : State} (h : phaseStep s = .next t) : t.phase = s.phase.next := by
  obtain ⟨bus, -, rfl⟩ := phaseStep_next h
  rfl

/-- `n + 1` calls of `Step()` that complete are one that completes and then `n` that do. -/
theorem phaseSteps_succ_next {n : Nat} {s t : State} (h : phaseSteps (n + 1) s = .next t) :
    ∃ u, phaseStep s = .next u ∧ phaseSteps n u = .next t := by
  cases hu : phaseStep s with
  | next u => exact ⟨u, rfl, by rwa [phaseSteps_succ n hu] at h⟩
  | fault f => simp [phaseSteps, hu] at h
  | refused r => simp [phaseSteps, hu] at h

/-- Calls of `Step()` that complete keep memory canonical and pulse the stepper once each. -/
theorem phaseSteps_inv_phase {n : Nat} {s t : State} (hs : s.Inv) (h : phaseSteps n s = .next t) :
    t.Inv ∧ t.phase = Phase.pulses n s.phase := by
  induction n generalizing s with
  | zero =>
    cases h
    exact ⟨hs, rfl⟩
  | succ n ih =>
    obtain ⟨u, hu, ht⟩ := phaseSteps_succ_next h
    have hrest := ih (phaseStep_inv hs hu) ht
    rwa [phaseStep_phase hu] at hrest

/-- Inside an instruction the calls that are left end at P6 (spec/43_sequencer.md R231). -/
theorem Phase.pulses_remaining {p : Phase} (h : p.isBoundary = false) : Phase.pulses p.remaining p = .p6 := by
  cases p with
  | reset => cases h
  | _ => rfl

theorem step_inside {s : State} (h : s.phase.isBoundary = false) : step s = phaseSteps s.phase.remaining s := by
  simp [step, h, resume]

/-- Settles O51: at a boundary the fetch and every meaning keep memory canonical; inside one each phase does. -/
theorem everyStepKeepsMemoryCanonical : Obligations.EveryStepKeepsMemoryCanonical := by
  refine ⟨fun s t hs h => ?_, fun s t => phaseStep_inv⟩
  cases hb : s.phase.isBoundary with
  | true =>
    rw [step_boundary hb] at h
    have hc : Completes (fetch s) (nextInstr s) t := exec_next_iff.1 h
    exact ⟨hc.inv hs, hc.phase_eq⟩
  | false =>
    rw [step_inside hb] at h
    have ⟨hinv, hphase⟩ := phaseSteps_inv_phase hs h
    exact ⟨hinv, hphase.trans (Phase.pulses_remaining hb)⟩

/-! ### A store into the instruction stream -/

/-- All that a step which runs an ST does to IAR and to what memory reads (spec/44_memory_instructions.md R261). -/
theorem step_st {s : State} {a b : Reg} (hs : s.phase.isBoundary = true) (hi : nextInstr s = .st a b) :
    ∃ t, step s = .next t ∧ t.phase = .p6 ∧ t.iar = s.iar + 1 ∧
      ∀ x, t.load x = if x = s.reg a then s.reg b else s.load x := by
  rw [step_boundary hs, hi]
  exact ⟨_, exec_of_completes (.st a b), rfl, rfl, fun x => State.load_store (fetch s) (s.reg a) x (s.reg b)⟩

/-- A state at a boundary that holds `w` at IAR and `second` after it runs what the two words decode to. -/
theorem step_of_words {s : State} {w second : Word} (hs : s.phase.isBoundary = true) (hw : s.load s.iar = w)
    (hsecond : s.load (s.iar + 1) = second) : step s = exec (instrOf w second) (fetch s) := by
  rw [step_boundary hs, nextInstr, hw, hsecond]

/-- Settles O57: after the store, IAR is the address stored to, and the word after it is another word. -/
theorem storeToNextInstructionIsExecuted : Obligations.StoreToNextInstructionIsExecuted := by
  intro s a b rest hs hdec haddr
  have hi : nextInstr s = .st a b := (decode_two hdec).symm
  have hnext : s.iar + 1 + 1 = s.iar + 2 := BitVec.add_assoc s.iar 1 1
  have hne : s.iar + 2 ≠ s.iar + 1 := by bv_omega
  obtain ⟨t, hstep, hphase, hiar, hload⟩ := step_st hs hi
  have hword : t.load t.iar = s.reg b := by rw [hload, hiar, if_pos haddr.symm]
  have hsecond : t.load (t.iar + 1) = s.load (s.iar + 2) := by rw [hload, hiar, hnext, haddr, if_neg hne]
  have hboundary : t.phase.isBoundary = true := by rw [hphase]; rfl
  exact ⟨t, hstep, hiar, hword, step_of_words hboundary hword hsecond⟩

/-! ### The host's calls -/

/-- An image changes no word it holds nothing for. -/
theorem Memory.read_withImage_of_not_mem {image : List (Word × Word)} {a : Word} (h : ∀ w, (a, w) ∉ image)
    (m : Memory) : (m.withImage image).read a.toNat = m.read a.toNat := by
  induction image generalizing m with
  | nil => rfl
  | cons c image ih =>
    obtain ⟨x, w⟩ := c
    have hne : a.toNat ≠ x.toNat := fun e => h w (by simp [BitVec.eq_of_toNat_eq e])
    have htail : ∀ w', (a, w') ∉ image := fun w' hmem => h w' (List.mem_cons_of_mem _ hmem)
    rw [Memory.withImage, ih htail, Memory.read_write, if_neg hne]

/-- The address of word `k + 1` of an image is that of word `k` of the image that starts one address later. -/
theorem add_ofNat_succ (base : Word) (k : Nat) : base + BitVec.ofNat 16 (k + 1) = base + 1 + BitVec.ofNat 16 k := by
  bv_omega

/-- The addresses of an image are the consecutive ones from its base (spec/20_memory.md R81). -/
theorem exists_index_of_mem_imageAt {words : List Word} {base a w : Word} (h : (a, w) ∈ imageAt base words) :
    ∃ k, k < words.length ∧ a = base + BitVec.ofNat 16 k := by
  induction words generalizing base with
  | nil => cases h
  | cons x words ih =>
    obtain heq | htail := List.mem_cons.1 h
    · cases heq
      exact ⟨0, Nat.succ_pos _, (BitVec.add_zero a).symm⟩
    · obtain ⟨k, hk, rfl⟩ := ih htail
      exact ⟨k + 1, Nat.succ_lt_succ hk, (add_ofNat_succ base k).symm⟩

/-- An image of fewer than 65536 words does not come round to the address before its base. -/
theorem not_mem_imageAt_succ {words : List Word} (base w : Word) (h : words.length < 65536) :
    (base, w) ∉ imageAt (base + 1) words := by
  intro hmem
  obtain ⟨k, hk, hbase⟩ := exists_index_of_mem_imageAt hmem
  bv_omega

theorem Memory.read_withImage_imageAt {words : List Word} {base w : Word} {k : Nat} (hlen : words.length ≤ 65536)
    (h : words[k]? = some w) (m : Memory) :
    (m.withImage (imageAt base words)).read (base + BitVec.ofNat 16 k).toNat = w := by
  induction words generalizing base k m with
  | nil => simp at h
  | cons x words ih =>
    rw [imageAt, Memory.withImage]
    cases k with
    | zero =>
      cases h
      rw [show base + BitVec.ofNat 16 0 = base from BitVec.add_zero base,
        Memory.read_withImage_of_not_mem fun w' => not_mem_imageAt_succ base w' hlen, Memory.read_write, if_pos rfl]
    | succ k =>
      rw [add_ofNat_succ]
      exact ih (Nat.le_of_succ_le hlen) h _

theorem loadImage_of_reset {s : State} (hs : s.phase = .reset) (image : List (Word × Word)) :
    loadImage image s = .next { s with mem := s.mem.withImage image } := if_pos hs

theorem hostWrite_of_isBoundary {s : State} (hs : s.phase.isBoundary = true) (w : HostWrite) :
    hostWrite w s = .next (w.apply s) := if_pos hs

theorem hostWrite_inside {s : State} (hs : s.phase.isBoundary = false) (w : HostWrite) :
    hostWrite w s = .refused (.hostWriteInsideInstruction s.phase) := by
  simp [hostWrite, hs]

/-- Settles O60: loading by induction on the image; the other calls by the condition each one tests. -/
theorem loadedImageIsReadBack : Obligations.LoadedImageIsReadBack := by
  refine ⟨fun s base words hs hlen => ?load, fun s p hs => if_pos hs, fun s image p w => ?refusals,
    fun s r addr v f b p hs => ?writes⟩
  case load =>
    refine ⟨_, loadImage_of_reset hs _, fun k w h => Memory.read_withImage_imageAt hlen h s.mem,
      fun addr haddr => Memory.read_withImage_of_not_mem (fun w hmem => ?_) s.mem, rfl⟩
    obtain ⟨k, hk, he⟩ := exists_index_of_mem_imageAt hmem
    exact haddr k hk he
  case refusals =>
    exact ⟨fun hs => ⟨if_neg hs, if_neg hs⟩, fun hs => hostWrite_inside hs w⟩
  case writes =>
    simp only [hostWrite_of_isBoundary hs]
    refine ⟨⟨_, rfl, ?_, fun q hq => ?_, rfl⟩, ⟨_, rfl, ?_, fun x hx => ?_, rfl⟩, rfl, rfl, rfl, rfl, rfl, rfl,
      rfl, rfl, rfl⟩
    · exact (State.reg_setReg s r r v).trans (if_pos rfl)
    · exact (State.reg_setReg s r q v).trans (if_neg hq)
    · exact (State.load_store s addr addr v).trans (if_pos rfl)
    · exact (State.load_store s addr x v).trans (if_neg hx)

end Sys2Proof.Machine

/-! PROOFS of the family 30_encoding: the decoder on a list of words; the opcode byte as two nibbles, which every field
is read from; the row an encoding is in; and the round trip both ways. -/

namespace Sys2Proof

open Machine

/-! ### The decoder on a list of words -/

/-- The words an opcode word takes after it: its operand word, if it is of a 2-word class (R91, R99). -/
def operandWords (w second : Word) : List Word := if isTwoWord w then [second] else []

theorem instrOf_of_not_isTwoWord {w : Word} (h : isTwoWord w = false) (second : Word) :
    instrOf w second = instrOf w 0 :=
  (decode_two (rest := [second]) (by simp [decode, h])).symm

theorem decode_cons_cons (w second : Word) (rest : List Word) :
    decode (w :: second :: rest) = .ok (instrOf w second, if isTwoWord w then rest else second :: rest) := by
  cases h : isTwoWord w
  · simp [decode, h, instrOf_of_not_isTwoWord h second]
  · simp [decode, h]

theorem decode_cons_operandWords (w second : Word) (rest : List Word) :
    decode (w :: (operandWords w second ++ rest)) = .ok (instrOf w second, rest) := by
  cases h : isTwoWord w
  · simp [decode, operandWords, h, instrOf_of_not_isTwoWord h second]
  · simp [decode, operandWords, h]

theorem eq_of_decode_cons {w : Word} {rest rest' : List Word} {i : Instr} (h : decode (w :: rest) = .ok (i, rest')) :
    ∃ second, i = instrOf w second ∧ rest = operandWords w second ++ rest' := by
  cases htwo : isTwoWord w with
  | false =>
    simp only [decode, htwo, Bool.false_eq_true, if_false, Except.ok.injEq, Prod.mk.injEq] at h
    obtain ⟨hi, hrest⟩ := h
    exact ⟨0, hi.symm, by simpa [operandWords, htwo] using hrest⟩
  | true =>
    cases rest with
    | nil => simp [decode, htwo] at h
    | cons second rest =>
      simp only [decode_cons_cons, htwo, if_true, Except.ok.injEq, Prod.mk.injEq] at h
      obtain ⟨hi, hrest⟩ := h
      exact ⟨second, hi.symm, by simp [operandWords, htwo, hrest]⟩

/-! ### The two nibbles of the opcode byte

Each field of an opcode word is read from one of them, so finite facts about the fields are facts about 4-bit values. -/

/-- `IR[7:4]`: the class or the operation (R92, R94). `IR[3:0]`, the operands, is `fieldIgn4`. -/
def highNibble (w : Word) : BitVec 4 := w.extractLsb' 4 4

/-- The opcode word with the two nibbles and the high byte 0. -/
def opcodeByte (hi lo : BitVec 4) : Word := hi.setWidth 16 <<< 4 ||| lo.setWidth 16

@[simp] theorem highNibble_opcodeByte (hi lo : BitVec 4) : highNibble (opcodeByte hi lo) = hi := by
  ext k hk
  simp [opcodeByte, highNibble, show 4 + k < 16 by omega, hk]

@[simp] theorem fieldIgn4_opcodeByte (hi lo : BitVec 4) : fieldIgn4 (opcodeByte hi lo) = lo := by
  ext k hk
  simp [opcodeByte, fieldIgn4, hk]
  omega

theorem opcodeByte_nibbles (w : Word) : opcodeByte (highNibble w) (fieldIgn4 w) = w &&& 0x00FF := by
  ext k hk
  simp only [opcodeByte, highNibble, fieldIgn4]
  interval_cases k <;> simp

theorem highNibble_lowByte (w : Word) : highNibble (w &&& 0x00FF) = highNibble w := by
  rw [← opcodeByte_nibbles, highNibble_opcodeByte]

theorem fieldIgn4_lowByte (w : Word) : fieldIgn4 (w &&& 0x00FF) = fieldIgn4 w := by
  rw [← opcodeByte_nibbles, fieldIgn4_opcodeByte]

theorem toNat_highNibble (w : Word) : (highNibble w).toNat = w.toNat / 16 % 16 := by
  simp [highNibble, Nat.shiftRight_eq_div_pow]

theorem isAlu_eq (w : Word) : isAlu w = (highNibble w)[3] := by simp [isAlu, bit, highNibble]

theorem fieldClass_eq (w : Word) :
    fieldClass w = .ofBits (highNibble w)[2] (highNibble w)[1] (highNibble w)[0] := by
  simp [fieldClass, bit, highNibble]

theorem fieldOp_eq (w : Word) : fieldOp w = .ofBits (highNibble w)[2] (highNibble w)[1] (highNibble w)[0] := by
  simp [fieldOp, bit, highNibble]

theorem fieldA_eq (w : Word) : fieldA w = .ofBits (fieldIgn4 w)[3] (fieldIgn4 w)[2] := by
  simp [fieldA, bit, fieldIgn4]

theorem fieldB_eq (w : Word) : fieldB w = .ofBits (fieldIgn4 w)[1] (fieldIgn4 w)[0] := by
  simp [fieldB, bit, fieldIgn4]

theorem bit_three_eq (w : Word) : bit w 3 = (fieldIgn4 w)[3] := by simp [bit, fieldIgn4]

theorem fieldDa_eq (w : Word) : fieldDa w = .ofBit (fieldIgn4 w)[2] := by simp [fieldDa, bit, fieldIgn4]

theorem fieldMask_eq (w : Word) :
    fieldMask w = ⟨(fieldIgn4 w)[3], (fieldIgn4 w)[2], (fieldIgn4 w)[1], (fieldIgn4 w)[0]⟩ := by
  simp [fieldMask, bit, fieldIgn4]

theorem fieldIgn2_eq (w : Word) : fieldIgn2 w = (fieldIgn4 w).extractLsb' 2 2 := by
  ext k hk
  simp [fieldIgn2, fieldIgn4]

theorem isTwoWord_iff (w : Word) :
    isTwoWord w = true ↔ highNibble w = 2 ∨ highNibble w = 4 ∨ highNibble w = 5 := by
  simp only [isTwoWord, isAlu_eq, fieldClass_eq]
  generalize highNibble w = v
  decide +revert

theorem operandWords_eq (w second : Word) : operandWords w second =
    if highNibble w = 2 ∨ highNibble w = 4 ∨ highNibble w = 5 then [second] else [] := by
  simp only [operandWords, isTwoWord_iff]

theorem instrOf_congr {w v : Word} (hhi : highNibble w = highNibble v) (hlo : fieldIgn4 w = fieldIgn4 v)
    (second : Word) : instrOf w second = instrOf v second := by
  simp only [instrOf, isAlu_eq, fieldClass_eq, fieldOp_eq, fieldA_eq, fieldB_eq, bit_three_eq, fieldDa_eq, fieldMask_eq,
    fieldIgn2_eq, hhi, hlo]

/-- Settles O3: the low byte determines both nibbles, and these every field. -/
theorem highByteOfOpcodeWordIsIgnored : Obligations.HighByteOfOpcodeWordIsIgnored := by
  intro w v second h
  have hhi : highNibble w = highNibble v := by rw [← highNibble_lowByte, h, highNibble_lowByte]
  have hlo : fieldIgn4 w = fieldIgn4 v := by rw [← fieldIgn4_lowByte, h, fieldIgn4_lowByte]
  refine ⟨instrOf_congr hhi hlo second, ?_⟩
  rw [Bool.eq_iff_iff, isTwoWord_iff, isTwoWord_iff, hhi]

/-- Settles O4: the second hex digit is the high nibble. -/
theorem everyWordDecodesToOneOrTwoWords : Obligations.EveryWordDecodesToOneOrTwoWords := by
  intro w second rest
  refine ⟨instrOf w second, ?_⟩
  rw [decode_cons_cons]
  simp only [isTwoWord_iff, ← BitVec.toNat_inj, toNat_highNibble]
  rfl

/-! ### Encoding what was decoded -/

/-- The high nibble of a class (R94). -/
def InstrClass.nibble : InstrClass → BitVec 4
  | .ld => 0
  | .st => 1
  | .data => 2
  | .jr => 3
  | .jmp => 4
  | .jmpif => 5
  | .clf => 6
  | .io => 7

/-- The high nibble of an ALU operation (R92). -/
def AluOp.nibble (op : AluOp) : BitVec 4 := 1#1 ++ op.code

theorem highNibble_of_isAlu {w : Word} (h : isAlu w = true) : highNibble w = (fieldOp w).nibble := by
  rw [isAlu_eq] at h
  rw [fieldOp_eq]
  generalize highNibble w = v at *
  decide +revert

theorem highNibble_of_not_isAlu {w : Word} (h : isAlu w = false) : highNibble w = (fieldClass w).nibble := by
  rw [isAlu_eq] at h
  rw [fieldClass_eq]
  generalize highNibble w = v at *
  decide +revert

theorem fieldA_or_fieldB (w : Word) : (fieldA w).code <<< 2 ||| (fieldB w).code = (fieldIgn4 w).setWidth 16 := by
  simp only [fieldA_eq, fieldB_eq]
  generalize fieldIgn4 w = v
  decide +revert

theorem fieldIgn2_or_fieldB (w : Word) :
    (fieldIgn2 w).setWidth 16 <<< 2 ||| (fieldB w).code = (fieldIgn4 w).setWidth 16 := by
  simp only [fieldIgn2_eq, fieldB_eq]
  generalize fieldIgn4 w = v
  decide +revert

/-- `IR[3]`, the direction of IN and OUT, is the 8 between their bases 0x70 and 0x78. -/
theorem direction_or_fieldDa_or_fieldB (w : Word) :
    (if bit w 3 then 8 else 0) ||| (fieldDa w).code <<< 2 ||| (fieldB w).code = (fieldIgn4 w).setWidth 16 := by
  simp only [bit_three_eq, fieldDa_eq, fieldB_eq]
  generalize fieldIgn4 w = v
  decide +revert

theorem code_fieldMask (w : Word) : (fieldMask w).code = (fieldIgn4 w).setWidth 16 := by
  rw [fieldMask_eq]
  generalize fieldIgn4 w = v
  decide +revert

theorem FlagMask.code_of_isEmpty {m : FlagMask} (h : m.isEmpty = true) : m.code = 0 := by
  simp only [FlagMask.isEmpty, Bool.not_eq_true', Bool.or_eq_false_iff] at h
  simp [FlagMask.code, h]

theorem twoReg_fields (base w : Word) :
    twoReg base (fieldA w) (fieldB w) = base ||| (fieldIgn4 w).setWidth 16 := by
  rw [twoReg, BitVec.or_assoc, fieldA_or_fieldB]

theorem encode_aluInstr (op : AluOp) (a b : Reg) :
    encode (aluInstr op a b) = [twoReg (op.nibble.setWidth 16 <<< 4) a b] := by
  cases op <;> rfl

theorem encode_instrOf (w second : Word) : encode (instrOf w second) = (w &&& 0x00FF) :: operandWords w second := by
  rw [← opcodeByte_nibbles]
  cases hAlu : isAlu w with
  | true =>
    simp [instrOf, operandWords, isTwoWord, opcodeByte, hAlu, highNibble_of_isAlu, encode_aluInstr, twoReg_fields]
  | false =>
    rw [highNibble_of_not_isAlu hAlu]
    cases hc : fieldClass w <;>
      simp only [instrOf, operandWords, isTwoWord, opcodeByte, hAlu, hc, InstrClass.nibble, Bool.false_eq_true,
        if_false]
    case ld | st => simp [encode, twoReg_fields]
    case data | jr =>
      rw [← fieldIgn2_or_fieldB]
      split <;> simp [encode, *, BitVec.or_assoc]
    case jmp | clf => split <;> simp [encode, *]
    case jmpif =>
      rw [← code_fieldMask]
      split <;> simp [encode, FlagMask.code_of_isEmpty, *]
    case io =>
      rw [← direction_or_fieldDa_or_fieldB]
      split <;> simp [encode, *, ← BitVec.or_assoc]

theorem wellFormed_instrOf (w second : Word) : (instrOf w second).wellFormed = true := by
  cases hAlu : isAlu w with
  | true => cases hop : fieldOp w <;> simp [instrOf, aluInstr, hAlu, hop, Instr.wellFormed]
  | false =>
    cases hc : fieldClass w <;> simp only [instrOf, hAlu, hc, Bool.false_eq_true, if_false]
    case ld | st => rfl
    case data | jr | jmp | jmpif | clf =>
      split
      · rfl
      · next h => simpa [Instr.wellFormed] using h
    case io => split <;> rfl

/-- Settles O2: `encode_instrOf`, whichever operand word the decoder took. -/
theorem encodeOfDecodeClearsOnlyTheHighByte : Obligations.EncodeOfDecodeClearsOnlyTheHighByte := by
  intro w rest rest' i h
  obtain ⟨second, rfl, rfl⟩ := eq_of_decode_cons h
  exact ⟨wellFormed_instrOf w second, by rw [encode_instrOf, List.cons_append]⟩

/-! ### Decoding what was encoded -/

/-- The words of `i` are those of its row of the opcode table: an opcode word in the row of `i`'s name, and the operand
words it takes, which the decoder reads as `i`. -/
def EncodesItsRow (i : Instr) : Prop :=
  ∃ w second, encode i = w :: operandWords w second ∧ instrOf w second = i ∧ tableMnemonic w = some i.mnemonic

theorem encodesItsRow_jmpif {mask : FlagMask} (h : mask.isEmpty = false) (addr : Word) :
    EncodesItsRow (.jmpif mask addr) := by
  obtain ⟨w, hw, hhi, hmask, hrow⟩ : ∃ w : Word, 0x50 ||| mask.code = w ∧ highNibble w = 5 ∧
      fieldMask w = mask ∧ tableMnemonic w = some "JMP_flags__addr__JMPIF" := by
    obtain ⟨c, a, e, z⟩ := mask
    exact ⟨_, rfl, by decide +revert⟩
  refine ⟨w, addr, ?_, ?_, hrow⟩
  · rw [encode, hw, operandWords_eq, hhi]
    rfl
  · rw [instrOf, isAlu_eq, fieldClass_eq, hhi, hmask]
    exact if_neg (ne_true_of_eq_false h)

/-- The fields of the patterns that execute as DATA (`hi = 2`) and as JR (`hi = 3`). -/
theorem fields_of_ign2_reg (hi : BitVec 4) (ign : BitVec 2) (b : Reg) :
    ∃ w, opcodeByte hi 0 ||| (ign.setWidth 16 <<< 2) ||| b.code = w ∧
      highNibble w = hi ∧ fieldIgn2 w = ign ∧ fieldB w = b := by
  refine ⟨_, rfl, ?_⟩
  cases b <;> decide +revert

theorem encodesItsRow_dataUndef {ign : BitVec 2} (h : ign ≠ 0) (b : Reg) (lit : Word) :
    EncodesItsRow (.dataUndef ign b lit) := by
  obtain ⟨w, hw, hhi, hign, hb⟩ := fields_of_ign2_reg 2 ign b
  refine ⟨w, lit, ?_, ?_, ?_⟩
  · rw [operandWords_eq, hhi, ← hw]
    rfl
  · rw [instrOf, isAlu_eq, fieldClass_eq, hhi, hign, hb]
    exact if_neg h
  · subst hw
    rw [Instr.mnemonic]
    cases b <;> decide +revert

theorem encodesItsRow_jrUndef {ign : BitVec 2} (h : ign ≠ 0) (b : Reg) : EncodesItsRow (.jrUndef ign b) := by
  obtain ⟨w, hw, hhi, hign, hb⟩ := fields_of_ign2_reg 3 ign b
  refine ⟨w, 0, ?_, ?_, ?_⟩
  · rw [operandWords_eq, hhi, ← hw]
    rfl
  · rw [instrOf, isAlu_eq, fieldClass_eq, hhi, hign, hb]
    exact if_neg h
  · subst hw
    rw [Instr.mnemonic]
    cases b <;> decide +revert

theorem encodesItsRow_jmpUndef {ign : BitVec 4} (h : ign ≠ 0) (addr : Word) : EncodesItsRow (.jmpUndef ign addr) := by
  refine ⟨opcodeByte 4 ign, addr, ?_, ?_, ?_⟩
  · rw [operandWords_eq, highNibble_opcodeByte]
    rfl
  · rw [instrOf, isAlu_eq, fieldClass_eq, highNibble_opcodeByte, fieldIgn4_opcodeByte]
    exact if_neg h
  · rw [Instr.mnemonic]
    decide +revert

theorem encodesItsRow_clfUndef {ign : BitVec 4} (h : ign ≠ 0) : EncodesItsRow (.clfUndef ign) := by
  refine ⟨opcodeByte 6 ign, 0, ?_, ?_, ?_⟩
  · rw [operandWords_eq, highNibble_opcodeByte]
    rfl
  · rw [instrOf, isAlu_eq, fieldClass_eq, highNibble_opcodeByte, fieldIgn4_opcodeByte]
    exact if_neg h
  · rw [Instr.mnemonic]
    decide +revert

theorem encodesItsRow_of_wellFormed {i : Instr} (h : i.wellFormed = true) : EncodesItsRow i := by
  cases i with
  | ld a b | st a b | add a b | shr a b | shl a b | not a b | and a b | or a b | xor a b | cmp a b =>
    cases a <;> cases b <;> exact ⟨_, 0, rfl, rfl, rfl⟩
  | data b lit => cases b <;> exact ⟨_, lit, rfl, rfl, rfl⟩
  | jr b => cases b <;> exact ⟨_, 0, rfl, rfl, rfl⟩
  | jmp addr | jmpifEmpty addr => exact ⟨_, addr, rfl, rfl, rfl⟩
  | jmpif mask addr => exact encodesItsRow_jmpif (by simpa [Instr.wellFormed] using h) addr
  | clf => exact ⟨_, 0, rfl, rfl, rfl⟩
  | inp da b | outp da b => cases da <;> cases b <;> exact ⟨_, 0, rfl, rfl, rfl⟩
  | dataUndef ign b lit => exact encodesItsRow_dataUndef (by simpa [Instr.wellFormed] using h) b lit
  | jrUndef ign b => exact encodesItsRow_jrUndef (by simpa [Instr.wellFormed] using h) b
  | jmpUndef ign addr => exact encodesItsRow_jmpUndef (by simpa [Instr.wellFormed] using h) addr
  | clfUndef ign => exact encodesItsRow_clfUndef (by simpa [Instr.wellFormed] using h)

/-- Settles O1: a well-formed instruction encodes to words of its row, and these decode to it. -/
theorem decodeOfEncodeIsIdentity : Obligations.DecodeOfEncodeIsIdentity := by
  intro i rest h
  obtain ⟨w, second, henc, hi, -⟩ := encodesItsRow_of_wellFormed h
  rw [henc, List.cons_append, decode_cons_operandWords, hi]

theorem tableMnemonic_lowByte (w : Word) : tableMnemonic (w &&& 0x00FF) = tableMnemonic w := by
  have hmask : ∀ r ∈ opcodeTable, 0x00FF &&& r.mask = r.mask := by decide
  unfold tableMnemonic
  congr 1
  refine List.find?_congr fun r hr => ?_
  rw [BitVec.and_assoc, hmask r hr]

/-- Settles O5: up to its high byte, which no row's mask reads, a word is the opcode word that the instruction read from
it encodes to, and that one is in the instruction's row. -/
theorem decoderFollowsTheOpcodeTable : Obligations.DecoderFollowsTheOpcodeTable := by
  intro w second
  obtain ⟨v, operand, henc, -, hrow⟩ := encodesItsRow_of_wellFormed (wellFormed_instrOf w second)
  rw [encode_instrOf, List.cons_eq_cons] at henc
  rw [← tableMnemonic_lowByte, henc.1, hrow]

/-! ### Encodings as numbers -/

theorem twoReg_opcodeByte (hi : BitVec 4) (a b : Reg) :
    twoReg (opcodeByte hi 0) a b = BitVec.ofNat 16 (16 * hi.toNat + (4 * a.code.toNat + b.code.toNat)) := by
  cases a <;> cases b <;> decide +revert

theorem opcodeByte_or_code (hi : BitVec 4) (b : Reg) :
    opcodeByte hi 0 ||| b.code = BitVec.ofNat 16 (16 * hi.toNat + b.code.toNat) := by
  cases b <;> decide +revert

theorem or_ioSelCode_or_code {base : Word} (h : base = 0x70 ∨ base = 0x78) (da : IoSel) (b : Reg) :
    base ||| (da.code <<< 2) ||| b.code = BitVec.ofNat 16 (base.toNat + (4 * da.code.toNat + b.code.toNat)) := by
  rcases h with rfl | rfl <;> cases da <;> cases b <;> rfl

theorem or_maskCode (m : FlagMask) : 0x50 ||| m.code =
    BitVec.ofNat 16 (0x50 + 8 * m.c.toNat + 4 * m.a.toNat + 2 * m.e.toNat + m.z.toNat) := by
  obtain ⟨c, a, e, z⟩ := m
  decide +revert

/-- Settles O6, row by row; a row of the opcode map begins at 16 times its high nibble. -/
theorem encodingsAreTheCanonicalOpcodes : Obligations.EncodingsAreTheCanonicalOpcodes := by
  rintro a b da mask v n m rfl rfl
  have one {x y : Word} (h : x = y) : [x] = [y] := congrArg (· :: []) h
  have two {x y : Word} (h : x = y) : [x, v] = [y, v] := congrArg (· :: [v]) h
  have reg (hi : BitVec 4) := one (twoReg_opcodeByte hi a b)
  exact ⟨reg 0, reg 1, two (opcodeByte_or_code 2 b), one (opcodeByte_or_code 3 b), rfl, two (or_maskCode mask), rfl,
    one (or_ioSelCode_or_code (.inl rfl) da b), one (or_ioSelCode_or_code (.inr rfl) da b),
    reg 8, reg 9, reg 10, reg 11, reg 12, reg 13, reg 14, reg 15⟩

/-- Settles O7: the decoder evaluates each word. -/
theorem writtenWordsDecodeAsTheSpecSays : Obligations.WrittenWordsDecodeAsTheSpecSays :=
  ⟨rfl, rfl, rfl, rfl, rfl, rfl, rfl, rfl, rfl, rfl, rfl, rfl, rfl, rfl, rfl, rfl, rfl, rfl, rfl, rfl, rfl, rfl⟩

end Sys2Proof

/-! PROOFS of the family 40_storage_cells: the gates left over, the two passes of the latch cell, the enabler. -/

namespace Sys2Proof.Machine

/-! ### Gates -/

@[simp] theorem gateNor_eq (x y : Bool) : gateNor x y = !(x || y) := by rw [gateNor, gateNot_eq, gateOr_eq]

/-- Settles O8, by the equation of each gate. -/
theorem gatesMeetTheirTruthTables : Obligations.GatesMeetTheirTruthTables := fun x y =>
  ⟨gateNand_eq x y, gateNot_eq x, gateAnd_eq x y, gateOr_eq x y, gateNor_eq x y, gateXor_eq x y⟩

/-! ### The word register -/

/-- The enabler's function (spec/40_storage_cells.md R131). -/
theorem enabler_eq (q : Word) (enable : Bool) : enabler q enable = if enable then q else 0 := by
  refine word_ext fun k hk => ?_
  rw [enabler, bit_wordOfBits, gateAnd_eq]
  cases enable <;> simp [bit, hk]

/-- Settles O10: the two functions, each proved bit by bit. -/
theorem wordRegisterLatchesAndEnables : Obligations.WordRegisterLatchesAndEnables := fun q input set enable =>
  ⟨wordRegisterNext_eq q input set, enabler_eq q enable⟩

/-! ### The latch cell -/

theorem LatchGates.holds_iff {g : LatchGates} {q : Bool} : g.holds q = true ↔ g.g2 = q ∧ g.g3 = !q := by
  simp [LatchGates.holds]

theorem LatchGates.pass_g2 (g : LatchGates) (i s : Bool) : (g.pass i s).g2 = ((i && s) || !g.g3) := by
  simp [LatchGates.pass]

/-- A selected pass sets `g3` whatever the gates were, since `g1` is then the input. -/
theorem LatchGates.pass_selected_g3 (g : LatchGates) (i : Bool) : (g.pass i true).g3 = !i := by
  cases i <;> simp [LatchGates.pass]

/-- If `g3` is the negation of `q`, one pass settles the cell at `q`, unless it selects the other value. -/
theorem LatchGates.holds_pass {g : LatchGates} {q i s : Bool} (hg3 : g.g3 = !q) (hi : s = true → i = q) :
    (g.pass i s).holds q = true := by
  cases s with
  | false => simp [LatchGates.holds, LatchGates.pass, hg3]
  | true => simp [LatchGates.holds, LatchGates.pass, hg3, hi]

/-- The first pass sets `g3`, and the second one `g2` from it (spec/40_storage_cells.md R127). -/
theorem LatchGates.holds_update_selected (g : LatchGates) (i : Bool) : (g.update i true).holds i = true :=
  LatchGates.holds_pass (g.pass_selected_g3 i) fun _ => rfl

theorem LatchGates.holds_update_unselected {g : LatchGates} {q : Bool} (h : g.holds q = true) (i : Bool) :
    (g.update i false).holds q = true := by
  obtain ⟨-, hg3⟩ := holds_iff.1 h
  obtain ⟨-, hg3'⟩ := holds_iff.1 (holds_pass (i := i) (s := false) hg3 nofun)
  exact holds_pass hg3' nofun

/-- One pass can only raise the output of a cell that holds `q`, so it is wrong when a 1 is to be cleared. -/
theorem LatchGates.pass_g2_of_holds {g : LatchGates} {q : Bool} (h : g.holds q = true) (i s : Bool) :
    (g.pass i s).g2 = ((i && s) || q) := by
  obtain ⟨-, hg3⟩ := holds_iff.1 h
  rw [pass_g2, hg3, Bool.not_not]

/-- Settles O9: an update selected or not, and the output after the first pass. -/
theorem latchCellSettlesInTwoPasses : Obligations.LatchCellSettlesInTwoPasses := by
  refine ⟨fun g q i s h => ⟨?update, ?onePass⟩, LatchGates.holds_update_selected⟩
  case update =>
    cases s with
    | false => exact LatchGates.holds_update_unselected h i
    | true => exact g.holds_update_selected i
  case onePass =>
    rw [LatchGates.pass_g2_of_holds h]
    cases s with
    | false => simp [latchNext]
    | true => cases i <;> simp [latchNext]

end Sys2Proof.Machine

/-! PROOFS of the family 41_functional_units: the adder's carries are those of the library's addition; the comparator's
stages compare the bits seen so far; the shifters, the zero detector and the combiners, bit by bit; the decoders. -/

namespace Sys2Proof.Machine

/-! ### The bits of a word -/

theorem bit_wordOfBits_of_lt (f : Nat → Bool) {k : Nat} (hk : k < 16) : bit (wordOfBits f) k = f k := by
  rw [bit_wordOfBits, decide_eq_true hk, Bool.true_and]

theorem bit_and (x y : Word) (k : Nat) : bit (x &&& y) k = (bit x k && bit y k) := BitVec.getLsbD_and

theorem bit_or (x y : Word) (k : Nat) : bit (x ||| y) k = (bit x k || bit y k) := BitVec.getLsbD_or

theorem bit_xor (x y : Word) (k : Nat) : bit (x ^^^ y) k = (bit x k != bit y k) := BitVec.getLsbD_xor

theorem bit_not (x : Word) {k : Nat} (hk : k < 16) : bit (~~~x) k = !bit x k :=
  BitVec.getLsbD_not.trans (by rw [decide_eq_true hk, Bool.true_and]; rfl)

theorem bit_zero (k : Nat) : bit 0 k = false := BitVec.getLsbD_zero

theorem bit_shiftLeft_one (x : Word) {k : Nat} (hk : k < 16) :
    bit (x <<< 1) k = (decide (k ≠ 0) && bit x (k - 1)) := by
  rw [bit, BitVec.getLsbD_shiftLeft, decide_eq_true hk, Bool.true_and, bit]
  simp only [Nat.lt_one_iff, decide_not]

theorem bit_shiftRight_one (x : Word) (k : Nat) : bit (x >>> 1) k = bit x (k + 1) := by
  rw [bit, BitVec.getLsbD_ushiftRight, Nat.add_comm, bit]

theorem bit_bitWord (b : Bool) (k : Nat) : bit (bitWord b) k = (decide (k = 0) && b) := by
  cases b with
  | false => simp [bit, bitWord]
  | true => simp [bit, bitWord, BitVec.getLsbD_one]

theorem bit_bitWord_shiftLeft (b : Bool) {k : Nat} (hk : k < 16) :
    bit (bitWord b <<< 15) k = (decide (k = 15) && b) := by
  have hshift : bit (bitWord b <<< 15) k = (decide (k < 16) && !decide (k < 15) && bit (bitWord b) (k - 15)) :=
    BitVec.getLsbD_shiftLeft ..
  rw [hshift, bit_bitWord]
  by_cases h15 : k = 15
  · simp [h15]
  · have hlt : k < 15 := by omega
    simp [h15, hlt]

/-! ### Ripple adder -/

/-- The chain's carries are those of adding the lower bits exactly (spec/41_functional_units.md R151). -/
theorem rippleCarry_eq_carry (a b : Word) (cin : Bool) (k : Nat) : rippleCarry a b cin k = BitVec.carry k a b cin := by
  induction k with
  | zero => exact BitVec.carry_zero.symm
  | succ k ih =>
    rw [rippleCarry, ih, BitVec.carry_succ, fullAdderCarry, gateOr_eq, gateAnd_eq, gateAnd_eq, gateXor_eq, bit, bit]
    cases a.getLsbD k <;> cases b.getLsbD k <;> simp

theorem rippleSum_eq (a b : Word) (cin : Bool) : rippleSum a b cin = BitVec.ofNat 16 (adderSum a b cin) := by
  have hbits : rippleSum a b cin = a + b + BitVec.setWidth 16 (BitVec.ofBool cin) := word_ext fun k hk => by
    rw [rippleSum, bit_wordOfBits_of_lt _ hk, fullAdderSum, gateXor_eq, gateXor_eq, rippleCarry_eq_carry]
    exact (Bool.xor_assoc ..).trans (BitVec.getLsbD_add_add_bool hk a b cin).symm
  rw [hbits]
  refine BitVec.eq_of_toNat_eq ?_
  simp [adderSum]

theorem rippleCarryOut_eq (a b : Word) (cin : Bool) : rippleCarryOut a b cin = decide (65536 ≤ adderSum a b cin) :=
  (rippleCarry_eq_carry a b cin 16).trans BitVec.carry_width

/-- Settles O11: sum and carry-out are those of the exact sum. -/
theorem rippleAdderIsExact : Obligations.RippleAdderIsExact := fun a b cin =>
  ⟨by rw [rippleSum_eq, BitVec.toNat_ofNat]; rfl, rippleCarryOut_eq a b cin⟩

/-! ### Ripple comparator -/

/-- The number that the `n` highest bits of a word make: what the first `n` stages of the comparator see. -/
def highBits (x : Word) (n : Nat) : Nat := x.toNat / 2 ^ (16 - n)

theorem highBits_zero (x : Word) : highBits x 0 = 0 := Nat.div_eq_of_lt x.isLt

theorem highBits_all (x : Word) : highBits x 16 = x.toNat := Nat.div_one _

theorem highBits_succ (x : Word) {n : Nat} (hn : n < 16) :
    highBits x (n + 1) = 2 * highBits x n + (bit x (15 - n)).toNat := by
  have hpow : 2 ^ (16 - n) = 2 ^ (15 - n) * 2 := by rw [← Nat.pow_succ, ← Nat.succ_sub (by omega)]
  have hbit : (bit x (15 - n)).toNat = x.toNat / 2 ^ (15 - n) % 2 := Nat.toNat_testBit _ _
  rw [highBits, highBits, hpow, ← Nat.div_div_eq_div_mul, hbit, Nat.add_sub_add_right 15 1 n]
  omega

/-- A stage turns the comparison of two numbers into that of the numbers with one more bit (spec/41_functional_units.md
R152): the bits decide only when the numbers are equal. -/
theorem Comparison.stage_eq (p q : Nat) (x y : Bool) :
    Comparison.stage ⟨decide (p = q), decide (q < p)⟩ x y =
      ⟨decide (2 * p + x.toNat = 2 * q + y.toNat), decide (2 * q + y.toNat < 2 * p + x.toNat)⟩ := by
  have hx : x.toNat ≤ 1 := Bool.toNat_le x
  have hy : y.toNat ≤ 1 := Bool.toNat_le y
  obtain hlt | rfl | hgt := Nat.lt_trichotomy p q
  · have hbits : 2 * p + x.toNat < 2 * q + y.toNat := by omega
    simp [Comparison.stage, hlt.ne, hlt.not_gt, hbits.ne, hbits.not_gt]
  · cases x <;> cases y <;> simp [Comparison.stage]
  · have hbits : 2 * q + y.toNat < 2 * p + x.toNat := by omega
    simp [Comparison.stage, hgt, hgt.ne', hbits, hbits.ne']

theorem compareStages_eq (a b : Word) {n : Nat} (hn : n ≤ 16) :
    compareStages a b n = ⟨decide (highBits a n = highBits b n), decide (highBits b n < highBits a n)⟩ := by
  induction n with
  | zero => simp [compareStages, highBits_zero]
  | succ n ih =>
    rw [compareStages, ih (by omega), Comparison.stage_eq, highBits_succ a hn, highBits_succ b hn]

theorem rippleCompare_eq (a b : Word) : rippleCompare a b = ⟨decide (a = b), decide (b.toNat < a.toNat)⟩ := by
  rw [rippleCompare, compareStages_eq a b (Nat.le_refl 16), highBits_all, highBits_all]
  simp only [BitVec.toNat_inj]

/-- Settles O12, from the comparison of all 16 bits. -/
theorem rippleComparatorIsExact : Obligations.RippleComparatorIsExact := by
  intro a b
  rw [rippleCompare_eq]
  refine ⟨rfl, rfl, fun hlt => ?_⟩
  have hne : a ≠ b := fun e => Nat.ne_of_lt hlt (congrArg BitVec.toNat e)
  rw [decide_eq_false hne, decide_eq_false (Nat.lt_asymm hlt)]

/-! ### Shifters -/

theorem bit_leftShift (x : Word) (shiftIn : Bool) {k : Nat} (hk : k < 16) :
    bit (leftShift x shiftIn) k = if k = 0 then shiftIn else bit x (k - 1) :=
  bit_wordOfBits_of_lt _ hk

theorem bit_rightShift (x : Word) (shiftIn : Bool) {k : Nat} (hk : k < 16) :
    bit (rightShift x shiftIn) k = if k = 15 then shiftIn else bit x (k + 1) :=
  bit_wordOfBits_of_lt _ hk

theorem leftShift_eq (x : Word) (shiftIn : Bool) : leftShift x shiftIn = (x <<< 1) ||| bitWord shiftIn :=
  word_ext fun k hk => by
    rw [bit_leftShift x shiftIn hk, bit_or, bit_shiftLeft_one x hk, bit_bitWord]
    by_cases h0 : k = 0 <;> simp [h0]

theorem rightShift_eq (x : Word) (shiftIn : Bool) :
    rightShift x shiftIn = (x >>> 1) ||| (bitWord shiftIn <<< 15) :=
  word_ext fun k hk => by
    have hlast : bit x 16 = false := BitVec.getLsbD_of_ge x 16 (Nat.le_refl 16)
    rw [bit_rightShift x shiftIn hk, bit_or, bit_shiftRight_one, bit_bitWord_shiftLeft shiftIn hk]
    by_cases h15 : k = 15 <;> simp [h15, hlast]

/-- Settles O13: the wires by definition, the words bit by bit. -/
theorem shiftersAreExact : Obligations.ShiftersAreExact := by
  intro x shiftIn
  refine ⟨?leftIn, fun k hlo hhi => ?leftBit, leftShift_eq x shiftIn, rfl, ?rightIn, fun k hk => ?rightBit,
    rightShift_eq x shiftIn, rfl⟩
  case leftIn => exact bit_leftShift x shiftIn (by decide)
  case leftBit => exact (bit_leftShift x shiftIn (by omega)).trans (if_neg (by omega))
  case rightIn => exact bit_rightShift x shiftIn (by decide)
  case rightBit => exact (bit_rightShift x shiftIn (by omega)).trans (if_neg (by omega))

/-! ### Zero detector and combiners -/

/-- The OR of all bits is 0 exactly for the word with no bit set (spec/41_functional_units.md R157). -/
theorem zeroDetect_iff {x : Word} : zeroDetect x = true ↔ x = 0 := by
  have hbits : zeroDetect x = true ↔ ∀ k, k < 16 → bit x k = false := by
    simp [zeroDetect, gateOrN_eq_any]
  rw [hbits]
  constructor
  · exact fun h => word_ext fun k hk => (h k hk).trans (bit_zero k).symm
  · rintro rfl k -
    exact bit_zero k

theorem combineAnd_eq (a b : Word) : combineAnd a b = a &&& b := word_ext fun k hk => by
  rw [combineAnd, bit_wordOfBits_of_lt _ hk, gateAnd_eq, bit_and]

theorem combineOr_eq (a b : Word) : combineOr a b = a ||| b := word_ext fun k hk => by
  rw [combineOr, bit_wordOfBits_of_lt _ hk, gateOr_eq, bit_or]

theorem combineXor_eq (a b : Word) : combineXor a b = a ^^^ b := word_ext fun k hk => by
  rw [combineXor, bit_wordOfBits_of_lt _ hk, gateXor_eq, bit_xor]

theorem combineNot_eq (a : Word) : combineNot a = ~~~a := word_ext fun k hk => by
  rw [combineNot, bit_wordOfBits_of_lt _ hk, gateNot_eq, bit_not a hk]

/-- Settles O14, unit by unit. -/
theorem zeroDetectorAndCombinersAreExact : Obligations.ZeroDetectorAndCombinersAreExact := fun a b =>
  ⟨zeroDetect_iff, combineAnd_eq a b, combineOr_eq a b, combineXor_eq a b, combineNot_eq a⟩

/-! ### Decoders and the grid -/

/-- The accessor finds the one line that is 1 (spec/41_functional_units.md R160). -/
theorem decoderIndex_eq {k : Nat} (sel : BitVec k) : decoderIndex sel = sel.toNat := by
  have hsel : sel.toNat < (List.range (2 ^ k)).length := by rw [List.length_range]; exact sel.isLt
  refine (List.findIdx_eq hsel).2 ⟨?asserted, fun j hj => ?lower⟩
  case asserted =>
    rw [List.getElem_range]
    exact (decoderLine_iff sel.isLt).2 rfl
  case lower =>
    rw [List.getElem_range, Bool.eq_false_iff]
    exact fun h => Nat.ne_of_lt hj ((decoderLine_iff (Nat.lt_trans hj sel.isLt)).1 h)

/-- Settles O15, by the value of the one line that is 1. -/
theorem decoderIsOneHot : Obligations.DecoderIsOneHot := fun _ sel =>
  ⟨fun _ hj => decoderLine_iff hj, decoderIndex_eq sel⟩

/-- Settles O16: line `n` of either decoder is 1 exactly when the input is `n`. -/
theorem hierarchicalDecoderIsFlat : Obligations.HierarchicalDecoderIsFlat := fun _ _ hn =>
  Bool.eq_iff_iff.2 ((decoder256Line_iff hn).trans (decoderLine_iff hn).symm)

theorem cellDrives_iff {enable : Bool} {mar : Word} {n : Nat} (hn : n < 65536) :
    cellDrives enable mar n = true ↔ enable = true ∧ n = mar.toNat := by
  rw [cellDrives, gateAnd_eq, Bool.and_eq_true, cellSelected_iff hn, and_comm]

/-- Settles O17, by the cell that MAR addresses. -/
theorem gridSelectsExactlyTheAddressedCell : Obligations.GridSelectsExactlyTheAddressedCell := fun _ _ hn =>
  ⟨cellSelected_iff hn, fun _ => cellDrives_iff hn⟩

end Sys2Proof.Machine

/-! PROOFS of the family 42_alu: the units' structure against the function, the function as arithmetic, which operands it
reads, and the flags bus. -/

namespace Sys2Proof.Machine

/-! ### Structure -/

theorem decoderLine_eq {k : Nat} (sel : BitVec k) {j : Nat} (hj : j < 2 ^ k) :
    decoderLine sel j = decide (j = sel.toNat) :=
  Bool.eq_iff_iff.2 ((decoderLine_iff hj).trans decide_eq_true_iff.symm)

theorem zeroDetect_eq (x : Word) : zeroDetect x = decide (x = 0) :=
  Bool.eq_iff_iff.2 (zeroDetect_iff.trans decide_eq_true_iff.symm)

/-- Of the eight lines that of the operation alone is 1, so the bus carries its unit's word, and 0 for CMP, whose line has
no enabler (spec/42_alu.md R192). -/
theorem aluGatesOut_code (op : AluOp) (a b : Word) (cin : Bool) :
    aluGatesOut op.code a b cin = aluOut op a b cin := by
  simp only [aluGatesOut, enabler_eq, rippleSum_eq, rightShift_eq, leftShift_eq, combineNot_eq, combineAnd_eq,
    combineOr_eq, combineXor_eq]
  cases op <;> simp [decoderLine_eq, AluOp.code, aluOut]

/-- The carry-out of the adder or of a shifter, where its line is 1, and 0 for the other operations (spec/42_alu.md
R194). -/
theorem aluGatesCarry_code (op : AluOp) (a b : Word) (cin : Bool) :
    aluGatesCarry op.code a b cin = aluCarry op a b cin := by
  simp only [aluGatesCarry, gateOrN_eq_any, gateAnd_eq, rippleCarryOut_eq]
  cases op <;> simp [decoderLine_eq, AluOp.code, aluCarry, rightShiftOut, leftShiftOut]

/-- Settles O19, output by output. -/
theorem aluStructureComputesItsFunction : Obligations.AluStructureComputesItsFunction := by
  intro op a b cin
  simp only [aluGates, aluGatesOut_code, aluGatesCarry_code, rippleCompare_eq, zeroDetect_eq, alu, aluFlags]

/-! ### The function as arithmetic -/

theorem toNat_bitWord (b : Bool) : (bitWord b).toNat = b.toNat := by cases b <;> rfl

/-- The carry-in takes bit 15, which the shift has cleared (spec/42_alu.md R195). -/
theorem toNat_aluOut_shr (a b : Word) (cin : Bool) :
    (aluOut .shr a b cin).toNat = a.toNat / 2 + 32768 * cin.toNat := by
  have hlow : a.toNat / 2 < 2 ^ 15 := by omega
  have hin : (bitWord cin <<< 15).toNat = 2 ^ 15 * cin.toNat := by cases cin <;> rfl
  have hshift : (a >>> 1).toNat = a.toNat / 2 := by
    rw [BitVec.toNat_ushiftRight, Nat.shiftRight_eq_div_pow, Nat.pow_one]
  rw [aluOut, BitVec.toNat_or, hshift, hin, Nat.or_comm, ← Nat.two_pow_add_eq_or_of_lt hlow, Nat.add_comm]

/-- The carry-in takes bit 0, which the shift has cleared (spec/42_alu.md R195). -/
theorem toNat_aluOut_shl (a b : Word) (cin : Bool) :
    (aluOut .shl a b cin).toNat = 2 * a.toNat % 65536 + cin.toNat := by
  have hin : cin.toNat < 2 ^ 1 := Bool.toNat_lt cin
  have hshift : (a <<< 1).toNat = 2 ^ 1 * (a.toNat % 32768) := by
    rw [BitVec.toNat_shiftLeft, Nat.shiftLeft_eq]
    omega
  rw [aluOut, BitVec.toNat_or, hshift, toNat_bitWord, ← Nat.two_pow_add_eq_or_of_lt hin]
  omega

theorem bit_zero_eq_decide (x : Word) : bit x 0 = decide (x.toNat % 2 = 1) := Nat.testBit_zero x.toNat

theorem bit_fifteen_eq_decide (x : Word) : bit x 15 = decide (32768 ≤ x.toNat) := BitVec.msb_eq_decide x

/-- A and E compare the inputs and Z tests the output, whatever the operation (spec/42_alu.md R196, R197). -/
theorem alu_flags_iff (op : AluOp) (a b : Word) (cin : Bool) :
    ((alu op a b cin).flags.a = true ↔ b.toNat < a.toNat) ∧ ((alu op a b cin).flags.e = true ↔ a = b) ∧
      ((alu op a b cin).flags.z = true ↔ (alu op a b cin).out.toNat = 0) :=
  ⟨decide_eq_true_iff, decide_eq_true_iff, decide_eq_true_iff.trans BitVec.toNat_inj.symm⟩

/-- Settles O20, operation by operation. -/
theorem aluFunctionIsTheSpecsTable : Obligations.AluFunctionIsTheSpecsTable := by
  intro a b cin
  refine ⟨⟨?add, rfl⟩, ⟨?shr, ?shrCarry⟩, ⟨?shl, ?shlCarry⟩, ⟨?not, rfl⟩, ⟨fun k => ?and, rfl⟩, ⟨fun k => ?or, rfl⟩,
    ⟨fun k => ?xor, rfl⟩, ⟨rfl, rfl⟩, fun op => alu_flags_iff op a b cin⟩
  case add => exact BitVec.toNat_ofNat ..
  case shr => exact toNat_aluOut_shr a b cin
  case shrCarry => exact bit_zero_eq_decide a
  case shl => exact toNat_aluOut_shl a b cin
  case shlCarry => exact bit_fifteen_eq_decide a
  case not => exact BitVec.toNat_not
  case and => exact bit_and a b k
  case or => exact bit_or a b k
  case xor => exact bit_xor a b k

/-- Settles O21: the equations of `aluOut`, `aluCarry` and `aluFlags` do not name the inputs in question. -/
theorem aluOperandDependence : Obligations.AluOperandDependence := fun _ _ _ _ _ =>
  ⟨⟨rfl, rfl, rfl⟩, ⟨rfl, rfl, rfl, rfl⟩, ⟨rfl, rfl⟩, rfl, rfl⟩

/-! ### The flags bus -/

theorem Flags.getLsbD_toBits (f : Flags) :
    f.toBits.getLsbD 0 = f.c ∧ f.toBits.getLsbD 1 = f.a ∧ f.toBits.getLsbD 2 = f.e ∧ f.toBits.getLsbD 3 = f.z := by
  obtain ⟨c, a, e, z⟩ := f
  decide +revert

theorem Flags.ofBits_toBits (f : Flags) : Flags.ofBits f.toBits = f := by
  obtain ⟨hc, ha, he, hz⟩ := f.getLsbD_toBits
  rw [Flags.ofBits, hc, ha, he, hz]

theorem Flags.toBits_ofBits (v : BitVec 4) : (Flags.ofBits v).toBits = v := by decide +revert

/-- Settles O22: the layout bit by bit, the two directions, and the set pass of FLAGS. -/
theorem flagsBusLayout : Obligations.FlagsBusLayout := by
  refine ⟨fun f => ?layout, Flags.toBits_ofBits, fun _ _ _ => rfl⟩
  obtain ⟨hc, ha, he, hz⟩ := f.getLsbD_toBits
  exact ⟨hc, ha, he, hz, f.ofBits_toBits⟩

end Sys2Proof.Machine

/-! PROOFS of the family 43_sequencer: the equations are the table; no row of it has two drivers; one `Step()` is its row
(`phaseStep_eq_runRow`); the rows of P1 to P3 are the fetch and those of P4 to P6, class by class, the meaning; so the
step is six of them. Then the stepper, a stop inside an instruction, and the I/O bus lines. -/

namespace Sys2Proof.Machine

/-! ### The phase table -/

section Rows

variable (ir : Word) (f : Flags) (ct : Bool)

theorem controlLines_reset : controlLines .reset ir f ct = Control.idle := rfl

theorem controlLines_p4 : controlLines .p4 ir f ct = tableP4 ir := by
  unfold controlLines decodeSignals classLine tableP4
  cases isAlu ir with
  | true => rfl
  | false =>
    cases fieldClass ir with
    | io => cases bit ir 3 <;> rfl
    | _ => rfl

theorem controlLines_p5 : controlLines .p5 ir f ct = tableP5 ir ct := by
  unfold controlLines decodeSignals classLine tableP5
  cases isAlu ir with
  | true => rfl
  | false =>
    cases fieldClass ir with
    | io => cases bit ir 3 <;> rfl
    | _ => rfl

theorem controlLines_p6 : controlLines .p6 ir f ct = tableP6 ir f := by
  unfold controlLines decodeSignals classLine tableP6
  cases isAlu ir with
  | true => cases fieldOp ir <;> rfl
  | false => cases fieldClass ir <;> rfl

end Rows

/-- Settles O24, phase by phase: P1 to P3 are the same for every instruction, P4 to P6 go by the class. -/
theorem controlEquationsAreThePhaseTable : Obligations.ControlEquationsAreThePhaseTable := by
  intro p ir f ct
  cases p with
  | reset => exact controlLines_reset ir f ct
  | p1 => exact controlLines_p1 ir f ct
  | p2 => exact controlLines_p2 ir f ct
  | p3 => exact controlLines_p3 ir f ct
  | p4 => exact controlLines_p4 ir f ct
  | p5 => exact controlLines_p5 ir f ct
  | p6 => exact controlLines_p6 ir f ct

/-- The machine's equations may be read as the table. -/
theorem controlLines_eq_phaseTable (p : Phase) (ir : Word) (f : Flags) (ct : Bool) :
    controlLines p ir f ct = phaseTable p ir f ct :=
  controlEquationsAreThePhaseTable p ir f ct

/-! ### One driver in every row -/

/-- How many Enable lines and register-select requests a row asserts, the peripherals' among them. -/
def Control.enables (c : Control) : Nat :=
  c.iarEn.toNat + c.accEn.toNat + c.ramEn.toNat + c.regAEn.toNat + c.regBEn.toNat + c.ioClockEnable.toNat

/-- What spec/43_sequencer.md R230, spec/40_storage_cells.md R133 and spec/20_memory.md R65 ask of a row: one driver at
most, no component set while it is enabled, and MAR not set while memory is accessed. -/
def Control.exclusive (c : Control) : Bool :=
  decide (c.enables ≤ 1) && !(c.iarEn && c.iarSet) && !(c.accEn && c.accSet) && !(c.ramEn && c.ramSet) &&
    !(c.marSet && (c.ramEn || c.ramSet)) && !(c.regBSet && (c.regAEn || c.regBEn))

theorem exclusive_tableP4 (ir : Word) : (tableP4 ir).exclusive = true := by
  unfold tableP4
  cases isAlu ir with
  | true => rfl
  | false =>
    cases fieldClass ir with
    | io => cases bit ir 3 <;> rfl
    | _ => rfl

theorem exclusive_tableP5 (ir : Word) (ct : Bool) : (tableP5 ir ct).exclusive = true := by
  unfold tableP5
  cases isAlu ir with
  | true => rfl
  | false =>
    cases fieldClass ir with
    | io => cases bit ir 3 <;> rfl
    | _ => rfl

theorem exclusive_tableP6 (ir : Word) (f : Flags) : (tableP6 ir f).exclusive = true := by
  unfold tableP6
  cases isAlu ir with
  | true => cases fieldOp ir <;> rfl
  | false => cases fieldClass ir <;> rfl

theorem exclusive_controlLines (p : Phase) (ir : Word) (f : Flags) (ct : Bool) :
    (controlLines p ir f ct).exclusive = true := by
  rw [controlLines_eq_phaseTable]
  cases p with
  | p4 => exact exclusive_tableP4 ir
  | p5 => exact exclusive_tableP5 ir ct
  | p6 => exact exclusive_tableP6 ir f
  | _ => rfl

theorem Control.exclusive_iff {c : Control} : c.exclusive = true ↔
    c.enables ≤ 1 ∧ ¬(c.iarEn = true ∧ c.iarSet = true) ∧ ¬(c.accEn = true ∧ c.accSet = true) ∧
      ¬(c.ramEn = true ∧ c.ramSet = true) ∧ ¬(c.marSet = true ∧ (c.ramEn = true ∨ c.ramSet = true)) ∧
      ¬(c.regBSet = true ∧ (c.regAEn = true ∨ c.regBEn = true)) := by
  simp only [Control.exclusive, Bool.and_eq_true, Bool.or_eq_true, decide_eq_true_eq, Bool.not_eq_eq_eq_not,
    Bool.not_true, Bool.eq_false_iff, ne_eq, and_assoc]

theorem length_driveIf (en : Bool) (v : Word) : (driveIf en v).length = en.toNat := by cases en <;> rfl

/-- The words a row's Enable lines and register-select requests put on the bus: what `coreDrivers` gives when the two
requests are not made together (`coreDrivers_eq_requests`). -/
def Control.requests (c : Control) (s : State) : List Word :=
  driveIf c.iarEn s.iar ++ driveIf c.accEn s.acc ++ driveIf c.ramEn (s.load s.mar) ++
    driveIf c.regAEn (s.reg (fieldA s.ir)) ++ driveIf c.regBEn (s.reg (fieldB s.ir))

/-- A register drives exactly when a request names it (spec/43_sequencer.md R220). -/
theorem coreDrivers_eq_requests {c : Control} (h : c.exclusive = true) (s : State) :
    coreDrivers c s = c.requests s := by
  have hone := (Control.exclusive_iff.1 h).1
  unfold coreDrivers Control.requests Control.regEn
  cases hA : c.regAEn <;> cases hB : c.regBEn
  case true.true =>
    simp only [Control.enables, hA, hB, Bool.toNat_true] at hone
    omega
  case true.false => cases fieldA s.ir <;> simp [driveIf, State.reg, RegFile.get]
  case false.true => cases fieldB s.ir <;> simp [driveIf, State.reg, RegFile.get]
  case false.false => simp [driveIf]

theorem length_coreDrivers_le {c : Control} (h : c.exclusive = true) (s : State) :
    (coreDrivers c s).length + c.ioClockEnable.toNat ≤ 1 := by
  have hone := (Control.exclusive_iff.1 h).1
  rw [coreDrivers_eq_requests h]
  simpa only [Control.requests, Control.enables, List.length_append, length_driveIf] using hone

theorem coreDrivers_eq_nil {c : Control} (h : c.exclusive = true) (hio : c.ioClockEnable = true) (s : State) :
    coreDrivers c s = [] := by
  have hlen := length_coreDrivers_le h s
  rw [hio, Bool.toNat_true] at hlen
  exact List.length_eq_zero_iff.1 (by omega)

theorem request_of_regEn {c : Control} {ir : Word} {r : Reg} (h : c.regEn ir r = true) :
    c.regAEn = true ∨ c.regBEn = true := by
  simp only [Control.regEn, Bool.or_eq_true, Bool.and_eq_true] at h
  exact h.imp And.left And.left

theorem request_of_regSet {c : Control} {ir : Word} {r : Reg} (h : c.regSet ir r = true) : c.regBSet = true :=
  (Bool.and_eq_true_iff.1 h).1

/-- Settles O25, from what every row of the table is. -/
theorem atMostOneCoreDriver : Obligations.AtMostOneCoreDriver := by
  intro p s
  have hex := exclusive_controlLines p s.ir s.flags s.ct
  obtain ⟨-, hiar, hacc, hram, hmar, hreg⟩ := Control.exclusive_iff.1 hex
  refine ⟨(Nat.le_add_right _ _).trans (length_coreDrivers_le hex s), fun hio => coreDrivers_eq_nil hex hio s,
    fun r hr => hreg ⟨request_of_regSet hr.2, request_of_regEn hr.1⟩, ?_⟩
  rintro c rfl
  exact ⟨hiar, hacc, hram, hmar⟩

/-! ### The one fault -/

theorem Phase.next_eq_p5_iff {p : Phase} : p.next = .p5 ↔ p = .p4 := by
  cases p <;> decide

/-- The core's word, if there is one, is alone on the bus; so words collide only when two peripherals drive. -/
theorem mainBus_eq_none_iff (s : State) :
    mainBus (coreDrivers s.nextControl s ++ ioDrivers s.nextControl s) = none ↔
      s.phase = .p4 ∧ isAlu s.ir = false ∧ fieldClass s.ir = .io ∧ s.ir.getLsbD 3 = false ∧ 2 ≤ s.env.activeCount := by
  have hex : s.nextControl.exclusive = true := exclusive_controlLines _ _ _ _
  have hin := controlLines_ioClockEnable (p := s.phase.next) (ir := s.ir) (f := s.flags) (ct := s.ct)
  rw [Phase.next_eq_p5_iff] at hin
  rw [mainBus_none_iff]
  cases hio : s.nextControl.ioClockEnable with
  | true =>
    obtain ⟨hp, halu, hc, h3⟩ := hin.1 hio
    rw [coreDrivers_eq_nil hex hio, List.nil_append, ioDrivers, if_pos hio, Env.drive_length]
    exact ⟨fun h => ⟨hp, halu, hc, h3, h⟩, fun ⟨_, _, _, _, h⟩ => h⟩
  | false =>
    have hlen := length_coreDrivers_le hex s
    have hno : ioDrivers s.nextControl s = [] := by simp [ioDrivers, hio]
    constructor
    · intro h
      rw [hno, List.append_nil] at h
      omega
    · rintro ⟨hp, halu, hc, h3, -⟩
      exact absurd (hin.2 ⟨hp, halu, hc, h3⟩) (by simp [hio])

theorem phaseStep_of_collision {s : State}
    (h : mainBus (coreDrivers s.nextControl s ++ ioDrivers s.nextControl s) = none) :
    phaseStep s = .fault (.multipleDrivers s.phase.next s.ir) := by
  simp [phaseStep, h]

/-- Settles O28: with a value on the bus the phase completes, and without one there was a collision. -/
theorem phaseStepFaultsOnlyAtInOfTwoPeripherals : Obligations.PhaseStepFaultsOnlyAtInOfTwoPeripherals := by
  intro s
  have hfault : s.phase = .p4 → isAlu s.ir = false → fieldClass s.ir = .io → s.ir.getLsbD 3 = false →
      2 ≤ s.env.activeCount → phaseStep s = .fault (.multipleDrivers .p5 s.ir) := by
    intro hp halu hc h3 hactive
    rw [phaseStep_of_collision ((mainBus_eq_none_iff s).2 ⟨hp, halu, hc, h3, hactive⟩), hp, Phase.next]
  refine ⟨?_, hfault⟩
  cases hbus : mainBus (coreDrivers s.nextControl s ++ ioDrivers s.nextControl s) with
  | some bus => exact .inl ⟨_, phaseStep_of_bus rfl rfl hbus⟩
  | none =>
    obtain ⟨hp, halu, hc, h3, hactive⟩ := (mainBus_eq_none_iff s).1 hbus
    exact .inr ⟨hp, halu, hc, h3, hactive, hfault hp halu hc h3 hactive⟩

/-! ### One `Step()` as its row -/

/-- The state a row leaves when the bus has the value `bus`. -/
def Control.latched (c : Control) (p : Phase) (bus : Word) (s : State) : State where
  regs := if c.regBSet then s.regs.set (fieldB s.ir) bus else s.regs
  iar := if c.iarSet then bus else s.iar
  ir := if c.irSet then bus else s.ir
  mar := if c.marSet then bus else s.mar
  acc := if c.accSet then (alu c.aluOp bus (busOne c.bus1 s.tmp) c.cin).out else s.acc
  tmp := if c.tmpSet then bus else s.tmp
  flags := if c.flagsSet then (alu c.aluOp bus (busOne c.bus1 s.tmp) c.cin).flags else s.flags
  ct := if c.ctSet then s.flags.c else s.ct
  mem := if c.ramSet then s.mem.write s.mar.toNat bus else s.mem
  phase := p
  clk := s.clk
  env := exchange c (fieldDa s.ir) bus s.env

theorem setPhase_setEnv_latch (c : Control) (p : Phase) (bus : Word) (s : State) :
    ((latch c bus s).setEnv (exchange c (fieldDa s.ir) bus s.env)).setPhase p = c.latched p bus s := by
  have hregs : (latch c bus s).regs = if c.regBSet then s.regs.set (fieldB s.ir) bus else s.regs := by
    unfold latch Control.regSet
    cases c.regBSet <;> cases fieldB s.ir <;> rfl
  simp only [State.setEnv, State.setPhase, hregs]
  rfl

/-- A phase with its row of the table given: the bus from the requests, then the set pass. `phaseStep_eq_runRow` ties it
to `phaseStep`. -/
def runRow (p : Phase) (c : Control) (s : State) : Host.Outcome State Fault Refusal :=
  match mainBus (c.requests s ++ ioDrivers c s) with
  | none => .fault (.multipleDrivers p s.ir)
  | some bus => .next (c.latched p bus s)

theorem runRow_of_bus {p : Phase} {c : Control} {s : State} {bus : Word}
    (h : mainBus (c.requests s ++ ioDrivers c s) = some bus) : runRow p c s = .next (c.latched p bus s) := by
  rw [runRow, h]

theorem runRow_of_collision {p : Phase} {c : Control} {s : State}
    (h : mainBus (c.requests s ++ ioDrivers c s) = none) : runRow p c s = .fault (.multipleDrivers p s.ir) := by
  rw [runRow, h]

theorem phaseStep_eq_runRow {s : State} {p : Phase} (h : s.phase.next = p) :
    phaseStep s = runRow p (phaseTable p s.ir s.flags s.ct) s := by
  subst h
  have hdrivers := coreDrivers_eq_requests (exclusive_controlLines s.phase.next s.ir s.flags s.ct) s
  rw [← controlLines_eq_phaseTable]
  cases hbus : mainBus (coreDrivers s.nextControl s ++ ioDrivers s.nextControl s) with
  | none => rw [phaseStep_of_collision hbus, runRow_of_collision (by rw [← hdrivers, hbus])]
  | some bus =>
    rw [phaseStep_of_bus rfl rfl hbus, runRow_of_bus (by rw [← hdrivers, hbus]), setPhase_setEnv_latch]

/-! ### P1 to P3 -/

/-- The row of P1, and of P4 of DATA and JMPIF: MAR takes IAR, and ACC the address after it. -/
theorem runRow_increment (p : Phase) (s : State) :
    runRow p { Control.idle with iarEn := true, marSet := true, accSet := true, bus1 := true } s =
      .next { s with mar := s.iar, acc := s.iar + 1, phase := p } := by
  rw [← alu_increment]
  rfl

/-- The first three phases are the fetch (spec/43_sequencer.md R227). -/
theorem phaseSteps_fetch {s : State} (hs : s.phase.isBoundary = true) : phaseSteps 3 s = .next (fetch s) := by
  have h1 : phaseStep s = .next ((fetchAddress s).setPhase .p1) :=
    (phaseStep_eq_runRow (Phase.next_of_isBoundary hs)).trans (runRow_increment .p1 s)
  have h2 : phaseStep ((fetchAddress s).setPhase .p1) = .next ((fetchWord (fetchAddress s)).setPhase .p2) :=
    phaseStep_eq_runRow rfl
  have h3 : phaseStep ((fetchWord (fetchAddress s)).setPhase .p2) = .next (fetch s) := phaseStep_eq_runRow rfl
  rw [phaseSteps_succ 2 h1, phaseSteps_succ 1 h2, phaseSteps_succ 0 h3, phaseSteps_zero]

/-! ### P4 to P6, class by class -/

/-- IR is latched at P2 alone. -/
theorem phaseStep_ir {s t : State} (h : phaseStep s = .next t) (hp : t.phase ≠ .p2) : t.ir = s.ir := by
  obtain ⟨-, -, -, -, hir, -⟩ := phaseStepWritesOnlyInItsPhases s t h
  by_contra hne
  exact hp (hir hne)

theorem phaseStep_p4 {s : State} (h : s.phase = .p3) : phaseStep s = runRow .p4 (tableP4 s.ir) s :=
  phaseStep_eq_runRow (by rw [h]; rfl)

theorem phaseStep_p5 {s : State} (h : s.phase = .p4) : phaseStep s = runRow .p5 (tableP5 s.ir s.ct) s :=
  phaseStep_eq_runRow (by rw [h]; rfl)

theorem phaseStep_p6 {s : State} (h : s.phase = .p5) : phaseStep s = runRow .p6 (tableP6 s.ir s.flags) s :=
  phaseStep_eq_runRow (by rw [h]; rfl)

section Classes

variable {s : State} (hs : s.phase = .p3)
include hs

theorem phaseStep_p4_next {t : State} (h4 : runRow .p4 (tableP4 s.ir) s = .next t) :
    phaseStep s = .next t ∧ t.phase = .p4 ∧ t.ir = s.ir := by
  have step4 : phaseStep s = .next t := (phaseStep_p4 hs).trans h4
  have ht : t.phase = .p4 := by rw [phaseStep_phase step4, hs, Phase.next]
  exact ⟨step4, ht, phaseStep_ir step4 (by simp [ht])⟩

/-- Three rows that complete, all of the instruction latched at P2 (spec/43_sequencer.md R228). -/
theorem phaseSteps_three {t u v : State} (h4 : runRow .p4 (tableP4 s.ir) s = .next t)
    (h5 : runRow .p5 (tableP5 s.ir t.ct) t = .next u) (h6 : runRow .p6 (tableP6 s.ir u.flags) u = .next v) :
    phaseSteps 3 s = .next v := by
  obtain ⟨step4, ht, hirt⟩ := phaseStep_p4_next hs h4
  have step5 : phaseStep t = .next u := by rw [phaseStep_p5 ht, hirt, h5]
  have hu : u.phase = .p5 := by rw [phaseStep_phase step5, ht, Phase.next]
  have hiru : u.ir = s.ir := (phaseStep_ir step5 (by simp [hu])).trans hirt
  have step6 : phaseStep u = .next v := by rw [phaseStep_p6 hu, hiru, h6]
  rw [phaseSteps_succ 2 step4, phaseSteps_succ 1 step5, phaseSteps_succ 0 step6, phaseSteps_zero]

/-- A collision at P5 ends the instruction. -/
theorem phaseSteps_three_of_fault {t : State} {f : Fault} (h4 : runRow .p4 (tableP4 s.ir) s = .next t)
    (h5 : runRow .p5 (tableP5 s.ir t.ct) t = .fault f) : phaseSteps 3 s = .fault f := by
  obtain ⟨step4, ht, hirt⟩ := phaseStep_p4_next hs h4
  have step5 : phaseStep t = .fault f := by rw [phaseStep_p5 ht, hirt, h5]
  rw [phaseSteps_succ 2 step4, phaseSteps, step5]

/-- spec/45_alu_instructions.md R280. -/
theorem phaseSteps_alu (halu : isAlu s.ir = true) :
    phaseSteps 3 s = .next (aluInstruction (fieldOp s.ir) (fieldA s.ir) (fieldB s.ir) s) :=
  phaseSteps_three hs
    (t := { s with tmp := s.reg (fieldB s.ir), ct := s.flags.c, phase := .p4 })
    (by rw [tableP4, halu]; rfl)
    (u := { s with
      tmp := s.reg (fieldB s.ir)
      ct := s.flags.c
      acc := (alu (fieldOp s.ir) (s.reg (fieldA s.ir)) (s.reg (fieldB s.ir)) s.flags.c).out
      flags := (alu (fieldOp s.ir) (s.reg (fieldA s.ir)) (s.reg (fieldB s.ir)) s.flags.c).flags
      phase := .p5 })
    (by rw [tableP5, halu]; rfl)
    (by rw [tableP6, halu, aluInstruction_eq]; cases fieldOp s.ir <;> rfl)

variable (halu : isAlu s.ir = false)
include halu

/-- spec/44_memory_instructions.md R260. -/
theorem phaseSteps_ld (hc : fieldClass s.ir = .ld) : phaseSteps 3 s = exec (.ld (fieldA s.ir) (fieldB s.ir)) s :=
  phaseSteps_three hs
    (t := { s with mar := s.reg (fieldA s.ir), phase := .p4 })
    (by rw [tableP4, halu, hc]; rfl)
    (u := { s with
      mar := s.reg (fieldA s.ir)
      regs := s.regs.set (fieldB s.ir) (s.load (s.reg (fieldA s.ir)))
      phase := .p5 })
    (by rw [tableP5, halu, hc]; rfl)
    (by rw [tableP6, halu, hc]; rfl)

/-- spec/44_memory_instructions.md R261. -/
theorem phaseSteps_st (hc : fieldClass s.ir = .st) : phaseSteps 3 s = exec (.st (fieldA s.ir) (fieldB s.ir)) s :=
  phaseSteps_three hs
    (t := { s with mar := s.reg (fieldA s.ir), phase := .p4 })
    (by rw [tableP4, halu, hc]; rfl)
    (u := { s with
      mar := s.reg (fieldA s.ir)
      mem := s.mem.write (s.reg (fieldA s.ir)).toNat (s.reg (fieldB s.ir))
      phase := .p5 })
    (by rw [tableP5, halu, hc]; rfl)
    (by rw [tableP6, halu, hc]; rfl)

/-- spec/44_memory_instructions.md R262. -/
theorem phaseSteps_data (hc : fieldClass s.ir = .data) :
    phaseSteps 3 s = .next (loadLiteral (fieldB s.ir) (s.load s.iar) s) :=
  phaseSteps_three hs
    (t := { s with mar := s.iar, acc := s.iar + 1, phase := .p4 })
    (by rw [tableP4, halu, hc]; exact runRow_increment .p4 s)
    (u := { s with
      mar := s.iar
      acc := s.iar + 1
      regs := s.regs.set (fieldB s.ir) (s.load s.iar)
      phase := .p5 })
    (by rw [tableP5, halu, hc]; rfl)
    (by rw [tableP6, halu, hc]; rfl)

/-- spec/46_control_transfer.md R310. -/
theorem phaseSteps_jr (hc : fieldClass s.ir = .jr) : phaseSteps 3 s = .next (jumpToRegister (fieldB s.ir) s) :=
  phaseSteps_three hs
    (t := { s with iar := s.reg (fieldB s.ir), phase := .p4 })
    (by rw [tableP4, halu, hc]; rfl)
    (u := { s with iar := s.reg (fieldB s.ir), phase := .p5 })
    (by rw [tableP5, halu, hc]; rfl)
    (by rw [tableP6, halu, hc]; rfl)

/-- spec/46_control_transfer.md R311. -/
theorem phaseSteps_jmp (hc : fieldClass s.ir = .jmp) : phaseSteps 3 s = .next (jumpToAddress (s.load s.iar) s) :=
  phaseSteps_three hs
    (t := { s with mar := s.iar, phase := .p4 })
    (by rw [tableP4, halu, hc]; rfl)
    (u := { s with mar := s.iar, iar := s.load s.iar, phase := .p5 })
    (by rw [tableP5, halu, hc]; rfl)
    (by rw [tableP6, halu, hc]; rfl)

/-- spec/46_control_transfer.md R312. -/
theorem phaseSteps_jmpif (hc : fieldClass s.ir = .jmpif) :
    phaseSteps 3 s = .next (jumpIf (fieldMask s.ir) (s.load s.iar) s) :=
  phaseSteps_three hs
    (t := { s with mar := s.iar, acc := s.iar + 1, phase := .p4 })
    (by rw [tableP4, halu, hc]; exact runRow_increment .p4 s)
    (u := { s with mar := s.iar, acc := s.iar + 1, iar := s.iar + 1, phase := .p5 })
    (by rw [tableP5, halu, hc]; rfl)
    (by rw [tableP6, halu, hc, jumpIf_eq]; rfl)

/-- spec/47_flags_and_io.md R330. -/
theorem phaseSteps_clf (hc : fieldClass s.ir = .clf) : phaseSteps 3 s = .next (clearFlags s) :=
  phaseSteps_three hs
    (t := { s with flags := Flags.clear, phase := .p4 })
    (by rw [tableP4, halu, hc, ← alu_clf_flags]; rfl)
    (u := { s with flags := Flags.clear, phase := .p5 })
    (by rw [tableP5, halu, hc]; rfl)
    (by rw [tableP6, halu, hc]; rfl)

/-- spec/47_flags_and_io.md R332. -/
theorem phaseSteps_outp (hc : fieldClass s.ir = .io) (h3 : bit s.ir 3 = true) :
    phaseSteps 3 s = exec (.outp (fieldDa s.ir) (fieldB s.ir)) s :=
  phaseSteps_three hs
    (t := { s with env := s.env.observe ⟨fieldDa s.ir, s.reg (fieldB s.ir)⟩, phase := .p4 })
    (by rw [tableP4, halu, hc, h3]; rfl)
    (u := { s with env := s.env.observe ⟨fieldDa s.ir, s.reg (fieldB s.ir)⟩, phase := .p5 })
    (by rw [tableP5, halu, hc, h3]; rfl)
    (by rw [tableP6, halu, hc]; rfl)

/-- spec/47_flags_and_io.md R331: the bus at P5 is the peripherals' alone, and may hold no value. -/
theorem phaseSteps_inp (hc : fieldClass s.ir = .io) (h3 : bit s.ir 3 = false) :
    phaseSteps 3 s = exec (.inp (fieldDa s.ir) (fieldB s.ir)) s := by
  have h4 : runRow .p4 (tableP4 s.ir) s = .next { s with phase := .p4 } := by
    rw [tableP4, halu, hc, h3]
    rfl
  have row5 : tableP5 s.ir s.ct = { Control.idle with ioClockEnable := true, regBSet := true } := by
    rw [tableP5, halu, hc, h3]
    rfl
  cases hbus : mainBus (s.env.drive (fieldDa s.ir)) with
  | none =>
    rw [exec_inp_of_collision _ hbus]
    exact phaseSteps_three_of_fault hs h4 (by rw [row5]; exact runRow_of_collision hbus)
  | some v =>
    rw [exec_inp_of_bus _ hbus]
    exact phaseSteps_three hs h4
      (u := { s with regs := s.regs.set (fieldB s.ir) v, env := s.env.afterDrive, phase := .p5 })
      (by rw [row5]; exact runRow_of_bus hbus)
      (by rw [tableP6, halu, hc]; rfl)

end Classes

theorem FlagMask.eq_of_isEmpty {m : FlagMask} (h : m.isEmpty = true) : m = ⟨false, false, false, false⟩ := by
  obtain ⟨c, a, e, z⟩ := m
  simpa [FlagMask.isEmpty, and_assoc] using h

/-- P4 to P6 are the meaning of the instruction in IR, with the word at IAR as its second word. -/
theorem phaseSteps_eq_exec {s : State} (hs : s.phase = .p3) :
    phaseSteps 3 s = exec (instrOf s.ir (s.load s.iar)) s := by
  unfold instrOf
  cases halu : isAlu s.ir with
  | true => exact (phaseSteps_alu hs halu).trans (exec_aluInstr _ _ _ s).symm
  | false =>
    rw [if_neg Bool.false_ne_true]
    cases hc : fieldClass s.ir with
    | ld => exact phaseSteps_ld hs halu hc
    | st => exact phaseSteps_st hs halu hc
    | data => rw [phaseSteps_data hs halu hc]; dsimp only; split <;> rfl
    | jr => rw [phaseSteps_jr hs halu hc]; dsimp only; split <;> rfl
    | jmp => rw [phaseSteps_jmp hs halu hc]; dsimp only; split <;> rfl
    | jmpif =>
      rw [phaseSteps_jmpif hs halu hc]
      cases hm : (fieldMask s.ir).isEmpty with
      | true => rw [FlagMask.eq_of_isEmpty hm]; rfl
      | false => rfl
    | clf => rw [phaseSteps_clf hs halu hc]; dsimp only; split <;> rfl
    | io =>
      cases h3 : bit s.ir 3 with
      | true => exact phaseSteps_outp hs halu hc h3
      | false => exact phaseSteps_inp hs halu hc h3

/-! ### The step -/

theorem nextInstr_eq (s : State) : nextInstr s = instrOf (fetch s).ir ((fetch s).load (fetch s).iar) := rfl

theorem step_eq_phaseSteps {s : State} (hs : s.phase.isBoundary = true) : step s = phaseSteps (3 + 3) s := by
  rw [phaseSteps_add 3 3 (phaseSteps_fetch hs), phaseSteps_eq_exec (s := fetch s) rfl, ← nextInstr_eq,
    step_boundary hs]

/-- Settles O29: three phases fetch, and three run the instruction that P2 latched. -/
theorem stepIsSixPhaseTransitions : Obligations.StepIsSixPhaseTransitions := by
  intro s hs
  refine ⟨step_eq_phaseSteps hs, fun t ht => ?_⟩
  rw [step_boundary hs] at ht
  exact (exec_next_iff.1 ht).phase_eq

/-- Settles O31: the two words the decoder reads are those `nextInstr` reads. -/
theorem stepRunsTheDecodedInstruction : Obligations.StepRunsTheDecodedInstruction := by
  intro s i rest hs hdec
  have hi : nextInstr s = i := (decode_two hdec).symm
  rw [step_boundary hs, hi, fetch_eq]

/-! ### The stepper -/

theorem Phase.ofIndex_mod (n : Nat) : Phase.ofIndex (n % 6) = Phase.ofIndex n := by
  rw [Phase.ofIndex, Nat.mod_mod, Phase.ofIndex]

/-- Counting on from P1 goes round the six phases. -/
theorem Phase.next_ofIndex (k : Nat) : (Phase.ofIndex k).next = Phase.ofIndex (k + 1) := by
  have hround : ∀ j < 6, (Phase.ofIndex j).next = Phase.ofIndex (j + 1) := by decide
  rw [← Phase.ofIndex_mod k, hround _ (Nat.mod_lt k (by decide)), ← Phase.ofIndex_mod, Nat.mod_add_mod,
    Phase.ofIndex_mod]

theorem Phase.pulses_ofIndex (n k : Nat) : Phase.pulses n (Phase.ofIndex k) = Phase.ofIndex (k + n) := by
  induction n generalizing k with
  | zero => rfl
  | succ n ih => rw [Phase.pulses, Phase.next_ofIndex, ih, Nat.add_right_comm, Nat.add_assoc]

theorem Phase.pulses_of_isBoundary {p : Phase} (h : p.isBoundary = true) (n : Nat) :
    Phase.pulses (n + 1) p = Phase.ofIndex n := by
  rw [Phase.pulses, Phase.next_of_isBoundary h, show Phase.p1 = Phase.ofIndex 0 from rfl, Phase.pulses_ofIndex,
    Nat.zero_add]

theorem Phase.lines_ofIndex (n : Nat) :
    (Phase.ofIndex n).lines.count true = 1 ∧ (Phase.ofIndex n).lines[n % 6]? = some true := by
  have hsix : ∀ j < 6, (Phase.ofIndex j).lines.count true = 1 ∧ (Phase.ofIndex j).lines[j]? = some true := by decide
  have h := hsix (n % 6) (Nat.mod_lt n (by decide))
  rwa [Phase.ofIndex_mod] at h

/-- Settles O23: from RESET the stepper goes to P1 and then round, and each of the six phases has its one line. -/
theorem stepperPhaseAfterPulses : Obligations.StepperPhaseAfterPulses := by
  intro n
  rw [Phase.pulses_of_isBoundary rfl]
  exact ⟨rfl, Phase.lines_ofIndex n⟩

/-! ### Stopping inside an instruction -/

theorem phaseSteps_phase {n : Nat} {s t : State} (h : phaseSteps n s = .next t) :
    t.phase = Phase.pulses n s.phase := by
  induction n generalizing s with
  | zero =>
    cases h
    rfl
  | succ n ih =>
    obtain ⟨u, hu, ht⟩ := phaseSteps_succ_next h
    rw [ih ht, phaseStep_phase hu, Phase.pulses]

theorem Phase.inside_ofIndex : ∀ j < 5, (Phase.ofIndex j).isBoundary = false ∧ (Phase.ofIndex j).remaining = 5 - j := by
  decide

/-- Settles O30: the calls left after `k` of the six are the other `6 - k`. -/
theorem resumingCompletesTheSameInstruction : Obligations.ResumingCompletesTheSameInstruction := by
  intro s u k hs hk1 hk5 hu
  obtain ⟨j, rfl⟩ := Nat.exists_eq_add_of_le' hk1
  have hphase : u.phase = Phase.ofIndex j := (phaseSteps_phase hu).trans (Phase.pulses_of_isBoundary hs j)
  obtain ⟨hinside, hleft⟩ := Phase.inside_ofIndex j hk5
  rw [← hphase] at hinside hleft
  refine ⟨hinside, ?_⟩
  calc step u = phaseSteps (5 - j) u := by rw [step_inside hinside, hleft]
    _ = phaseSteps (j + 1 + (5 - j)) s := (phaseSteps_add (j + 1) (5 - j) hu).symm
    _ = step s := by rw [step_eq_phaseSteps hs, show j + 1 + (5 - j) = 3 + 3 by omega]

/-! ### The I/O bus lines -/

theorem instrOf_io {w second : Word} (halu : isAlu w = false) (hc : fieldClass w = .io) :
    instrOf w second = if bit w 3 then .outp (fieldDa w) (fieldB w) else .inp (fieldDa w) (fieldB w) := by
  rw [instrOf, halu, hc]
  rfl

/-- The direction of an IN or an OUT, 1 for output; no other instruction has one. -/
def ioDirection : Instr → Option Bool
  | .inp _ _ => some false
  | .outp _ _ => some true
  | _ => none

/-- Only a word of the class IO is an IN or an OUT, and IR[3] says which (spec/30_encoding.md R95). -/
theorem ioDirection_instrOf (w second : Word) :
    ioDirection (instrOf w second) = if classLine w .io then some (bit w 3) else none := by
  unfold instrOf classLine
  cases isAlu w with
  | true => cases fieldOp w <;> rfl
  | false =>
    rw [if_neg Bool.false_ne_true]
    cases fieldClass w with
    | ld => rfl
    | st => rfl
    | io => cases bit w 3 <;> rfl
    | _ => dsimp only; split <;> rfl

theorem io_of_ioDirection {w second : Word} {d : Bool} (h : ioDirection (instrOf w second) = some d) :
    isAlu w = false ∧ fieldClass w = .io ∧ w.getLsbD 3 = d := by
  rw [ioDirection_instrOf, Option.ite_none_right_eq_some, Option.some_inj] at h
  simpa [classLine, bit, and_assoc] using h

theorem instrOf_outp_iff {w : Word} : (∃ da b, ∀ second, instrOf w second = .outp da b) ↔
    isAlu w = false ∧ fieldClass w = .io ∧ w.getLsbD 3 = true := by
  constructor
  · rintro ⟨da, b, h⟩
    exact io_of_ioDirection (congrArg ioDirection (h 0))
  · rintro ⟨halu, hc, h3⟩
    exact ⟨fieldDa w, fieldB w, fun second => (instrOf_io halu hc).trans (if_pos h3)⟩

theorem instrOf_inp_iff {w : Word} : (∃ da b, ∀ second, instrOf w second = .inp da b) ↔
    isAlu w = false ∧ fieldClass w = .io ∧ w.getLsbD 3 = false := by
  constructor
  · rintro ⟨da, b, h⟩
    exact io_of_ioDirection (congrArg ioDirection (h 0))
  · rintro ⟨halu, hc, h3⟩
    exact ⟨fieldDa w, fieldB w, fun second => (instrOf_io halu hc).trans (if_neg (Bool.eq_false_iff.1 h3))⟩

theorem ioLines_clockSet (p : Phase) (ir : Word) (f : Flags) (ct : Bool) :
    (ioLines p ir).clockSet = (controlLines p ir f ct).ioClockSet := Bool.and_assoc _ _ _

theorem ioLines_clockEnable (p : Phase) (ir : Word) (f : Flags) (ct : Bool) :
    (ioLines p ir).clockEnable = (controlLines p ir f ct).ioClockEnable := Bool.and_assoc _ _ _

/-- Settles O26: the two clock lines are the control network's, and the word's class and IR[3] say which instruction it
is. -/
theorem ioLinesFollowPhaseAndInstruction : Obligations.IoLinesFollowPhaseAndInstruction := by
  intro p ir f ct
  refine ⟨ioLines_clockSet p ir f ct, ioLines_clockEnable p ir f ct, ?set, ?enable, fun hp => ?live, ?reset⟩
  case set => rw [ioLines_clockSet p ir f ct, controlLines_ioClockSet, instrOf_outp_iff]
  case enable => rw [ioLines_clockEnable p ir f ct, controlLines_ioClockEnable, instrOf_inp_iff]
  case live => simp [ioLines, hp, bit]
  case reset =>
    rintro rfl
    rfl

end Sys2Proof.Machine

/-! PROOFS of the family 44_memory_instructions: the exact post-state of LD, ST and DATA, and from those of LD and ST the
round trip of a stored word. -/

namespace Sys2Proof.Machine

/-- Settles O33: LD's meaning, field by field. -/
theorem ldLoadsTheWordAtRa : Obligations.LdLoadsTheWordAtRa :=
  fun a b _ => exec_of_completes (.ld a b)

/-- Settles O34: memory by the law of a read after a store, every other field by ST's meaning. -/
theorem stStoresRbAndKeepsOtherWords : Obligations.StStoresRbAndKeepsOtherWords := by
  intro a b s
  have hload (x : Word) : (s.store (s.reg a) (s.reg b)).load x = if x = s.reg a then s.reg b else s.load x :=
    State.load_store s (s.reg a) x (s.reg b)
  refine ⟨_, exec_of_completes (.st a b), rfl, ?stored, fun x hx => ?kept, rfl, rfl, rfl, rfl, rfl, rfl, rfl, rfl, rfl,
    rfl, rfl⟩
  case stored => exact (hload (s.reg a)).trans (if_pos rfl)
  case kept =>
    have hne : x ≠ s.reg a := fun e => hx (congrArg some e.symm)
    exact (hload x).trans (if_neg hne)

/-- Settles O35: DATA and the bytes 0x24 to 0x2F have the one effect, `loadLiteral`. -/
theorem dataLoadsTheLiteral : Obligations.DataLoadsTheLiteral := by
  rintro ign b lit s t rfl
  exact ⟨exec_of_completes (.data b lit), exec_of_completes (.dataUndef ign b lit)⟩

/-- Settles O56: ST keeps every general register, so R[a] still addresses the stored word, and the fetch between the two
writes neither memory nor a general register. -/
theorem storeThenLoadRoundTrips : Obligations.StoreThenLoadRoundTrips := by
  intro a b c s
  obtain ⟨t, hst, -, hstored, -, -, -, hregs, -⟩ := stStoresRbAndKeepsOtherWords a b s
  have haddr : t.reg a = s.reg a := congrArg (RegFile.get · a) hregs
  refine ⟨t, _, hst, ldLoadsTheWordAtRa a c (fetch t), ?_⟩
  calc (t.regs.set c (t.load (t.reg a))).get c = t.load (t.reg a) := by rw [RegFile.get_set, if_pos rfl]
    _ = s.reg b := by rw [haddr, hstored]

end Sys2Proof.Machine

/-! PROOFS of the family 45_alu_instructions: one post-state for the seven operations that write R[b], from which each
instruction's follows by its result, its carry and its test for zero; CMP's beside it. -/

namespace Sys2Proof.Machine

/-- The schedule of spec/45_alu_instructions.md R280 for every operation but CMP: its result and its carry are all that
differs from one to the next, with `isZero` as the test that Z makes of the result. -/
theorem exec_aluInstr_of_writes {op : AluOp} (hwrites : aluWritesRegister op = true) {a b : Reg} {s : State} {out : Word}
    {carry : Bool} {isZero : Prop} [Decidable isZero] (hout : aluOut op (s.reg a) (s.reg b) s.flags.c = out)
    (hcarry : aluCarry op (s.reg a) (s.reg b) s.flags.c = carry) (hzero : out = 0 ↔ isZero) :
    exec (aluInstr op a b) s = .next { s with
      regs := s.regs.set b out
      flags := ⟨carry, decide ((s.reg b).toNat < (s.reg a).toNat), decide (s.reg a = s.reg b), decide isZero⟩
      acc := out
      tmp := s.reg b
      ct := s.flags.c
      phase := .p6 } := by
  subst hout hcarry
  rw [exec_aluInstr, aluInstruction_eq, if_pos hwrites, ← decide_eq_decide.2 hzero]
  rfl

theorem ofNat_eq_zero_iff (n : Nat) : (BitVec.ofNat 16 n : Word) = 0 ↔ n % 65536 = 0 := by
  rw [← BitVec.toNat_inj, BitVec.toNat_ofNat]
  rfl

theorem ofNat_eq_zero_iff_of_lt {n : Nat} (h : n < 65536) : (BitVec.ofNat 16 n : Word) = 0 ↔ n = 0 := by
  rw [ofNat_eq_zero_iff, Nat.mod_eq_of_lt h]

/-- Settles O36: the result and the carry are the two halves of the adder's exact sum. -/
theorem addResultAndFlags : Obligations.AddResultAndFlags := by
  rintro a b s sum rfl
  exact exec_aluInstr_of_writes (op := .add) rfl rfl rfl (ofNat_eq_zero_iff _)

/-- Settles O37: the shifted word as a number, and the bit shifted out as a test of the input. -/
theorem shiftResultsAndFlags : Obligations.ShiftResultsAndFlags := by
  refine fun a b s => ⟨fun out hout => ?shr, fun out hout => ?shl⟩
  case shr =>
    obtain ⟨hlt, hword⟩ := BitVec.toNat_eq_nat.1
      ((toNat_aluOut_shr (s.reg a) (s.reg b) s.flags.c).trans hout.symm)
    exact exec_aluInstr_of_writes (op := .shr) rfl hword (bit_zero_eq_decide _) (ofNat_eq_zero_iff_of_lt hlt)
  case shl =>
    obtain ⟨hlt, hword⟩ := BitVec.toNat_eq_nat.1
      ((toNat_aluOut_shl (s.reg a) (s.reg b) s.flags.c).trans hout.symm)
    exact exec_aluInstr_of_writes (op := .shl) rfl hword (bit_fifteen_eq_decide _) (ofNat_eq_zero_iff_of_lt hlt)

/-- Settles O38: each result is the operation's own equation, and none of the four asserts a carry. -/
theorem logicResultsAndFlags : Obligations.LogicResultsAndFlags := by
  intro a b s after hafter
  simp only [hafter]
  exact ⟨exec_aluInstr_of_writes (op := .not) rfl rfl rfl .rfl, exec_aluInstr_of_writes (op := .and) rfl rfl rfl .rfl,
    exec_aluInstr_of_writes (op := .or) rfl rfl rfl .rfl, exec_aluInstr_of_writes (op := .xor) rfl rfl rfl .rfl⟩

/-- Settles O39: CMP puts 0 on the result bus, so Z is 1, and has no write-back. -/
theorem cmpSetsFlagsOnly : Obligations.CmpSetsFlagsOnly := fun a b s =>
  (exec_aluInstr .cmp a b s).trans (congrArg _ (aluInstruction_eq .cmp a b s))

end Sys2Proof.Machine

/-! PROOFS of the family 46_control_transfer: the post-states of the jumps, and of JMPIF by the two values of COND. -/

namespace Sys2Proof.Machine

/-- Settles O40: each listed jump and its undefined bytes share one effect, `jumpToRegister` or `jumpToAddress`. -/
theorem jumpsLoadIar : Obligations.JumpsLoadIar := fun _ =>
  ⟨fun ign b => ⟨exec_of_completes (.jr b), exec_of_completes (.jrUndef ign b)⟩,
    fun ign addr => ⟨exec_of_completes (.jmp addr), exec_of_completes (.jmpUndef ign addr)⟩⟩

theorem Flags.cond_eq_true_iff {f : Flags} {m : FlagMask} :
    f.cond m = true ↔ (f.c = true ∧ m.c = true) ∨ (f.a = true ∧ m.a = true) ∨
      (f.e = true ∧ m.e = true) ∨ (f.z = true ∧ m.z = true) := by
  simp only [Flags.cond, Bool.or_eq_true, Bool.and_eq_true, or_assoc]

theorem Flags.cond_eq_false_iff {f : Flags} {m : FlagMask} :
    f.cond m = false ↔ (f.c = false ∨ m.c = false) ∧ (f.a = false ∨ m.a = false) ∧
      (f.e = false ∨ m.e = false) ∧ (f.z = false ∨ m.z = false) := by
  simp only [Flags.cond, Bool.or_eq_false_iff, Bool.and_eq_false_iff, and_assoc]

theorem exec_jmpif_of_cond {mask : FlagMask} {s : State} {cond : Bool} (h : s.flags.cond mask = cond) (addr : Word) :
    exec (.jmpif mask addr) s = .next { s with
      mar := s.iar
      acc := s.iar + 1
      iar := if cond then addr else s.iar + 1
      phase := .p6 } := by
  subst h
  exact exec_of_completes (.jmpif mask addr)

/-- Settles O41: the two clauses are COND and its negation; the empty mask has COND 0. -/
theorem jmpifJumpsOnAnyNamedFlag : Obligations.JmpifJumpsOnAnyNamedFlag := by
  refine fun mask addr s => ⟨fun hset => ?taken, fun hclear => ?notTaken, ?emptyMask⟩
  case taken => exact exec_jmpif_of_cond (Flags.cond_eq_true_iff.2 hset) addr
  case notTaken => exact exec_jmpif_of_cond (Flags.cond_eq_false_iff.2 hclear) addr
  case emptyMask => exact exec_of_completes (.jmpifEmpty addr)

end Sys2Proof.Machine

/-! PROOFS of the family 47_flags_and_io: what an event does to a peripheral; that a `Step()` keeps the sole selection
of exclusive peripherals, so that it never faults; and the post-states of CLF, IN and OUT. -/

namespace Sys2Proof.Machine

/-! ### A peripheral at an event -/

section Events

variable {p : Peripheral} {v : Word}

/-- Everything an OUT Data does to a peripheral (spec/47_flags_and_io.md R336). -/
theorem Peripheral.observe_data (p : Peripheral) (v : Word) :
    p.observe ⟨.data, v⟩ = { p with reg := if p.active then v else p.reg } := rfl

/-- Everything an OUT Addr does to a peripheral (spec/47_flags_and_io.md R335, log 13). -/
theorem Peripheral.observe_addr (p : Peripheral) (v : Word) :
    p.observe ⟨.addr, v⟩ = { p with
      reg := if p.active && p.capturesAddr then v else p.reg
      active := p.activeAfterAddr v } := rfl

theorem Peripheral.activeAfterAddr_zero (p : Peripheral) : p.activeAfterAddr 0 = false := if_pos rfl

theorem Peripheral.activeAfterAddr_own (h : p.address ≠ 0) : p.activeAfterAddr p.address = true :=
  (if_neg h).trans (if_pos rfl)

theorem Peripheral.activeAfterAddr_of_sticky (h0 : v ≠ 0) (hv : v ≠ p.address) (hp : p.policy = .sticky) :
    p.activeAfterAddr v = p.active := by
  rw [activeAfterAddr, if_neg h0, if_neg hv, hp]

/-- An exclusive peripheral is active after exactly the OUT Addr that selects it, whatever it was before. -/
theorem Peripheral.activeAfterAddr_of_exclusive (hp : p.policy = .exclusive) :
    p.activeAfterAddr v = decide (v ≠ 0 ∧ v = p.address) := by
  rw [activeAfterAddr, hp]
  by_cases h0 : v = 0
  · simp [h0]
  · by_cases hv : v = p.address
    · simp [hv]
    · simp [hv]

/-- One that is inactive before an event captures nothing at it, at an OUT Addr that selects it neither. -/
theorem Peripheral.observe_reg_of_inactive (h : p.active = false) (ev : OutEvent) : (p.observe ev).reg = p.reg := by
  obtain ⟨da, v⟩ := ev
  cases da with
  | data => simp [observe_data, h]
  | addr => simp [observe_addr, h]

end Events

/-- Settles O45, by the equation of each kind of event and the cases of the word on the bus. -/
theorem peripheralSelectionAndCapture : Obligations.PeripheralSelectionAndCapture := by
  refine fun p v => ⟨Peripheral.activeAfterAddr_own, p.activeAfterAddr_zero, Peripheral.activeAfterAddr_of_sticky,
    fun _ hv hp => ?exclusive, rfl, fun hact => if_pos hact, fun da hin => p.observe_reg_of_inactive hin ⟨da, v⟩,
    fun hact hcap => ?captured, fun _ hcap => ?notCaptured, fun da => ?fixed⟩
  case exclusive =>
    exact (Peripheral.activeAfterAddr_of_exclusive hp).trans (decide_eq_false fun hsel => hv hsel.2)
  case captured => simp [Peripheral.observe_addr, hact, hcap]
  case notCaptured => simp [Peripheral.observe_addr, hcap]
  case fixed =>
    obtain ⟨haddr, hpolicy, hinputs, hcaptures⟩ := p.observe_fixed ⟨da, v⟩
    exact ⟨haddr, hpolicy, hcaptures, hinputs⟩

/-! ### Sole selection -/

theorem Env.activeCount_eq_countP (e : Env) : e.activeCount = e.peripherals.countP (·.active) :=
  List.countP_eq_length_filter.symm

/-- Addresses and policies are fixed, so after an exchange only the number of active peripherals is in question. -/
theorem Env.soleSelection_of_map {e e' : Env} {f : Peripheral → Peripheral} (h : e.soleSelection)
    (hmap : e'.peripherals = e.peripherals.map f)
    (hfixed : ∀ p, (f p).address = p.address ∧ (f p).policy = p.policy) (hcount : e'.activeCount ≤ 1) :
    e'.soleSelection := by
  obtain ⟨hpolicy, hnodup, -⟩ := h
  refine ⟨fun q hq => ?_, ?_, hcount⟩
  · rw [hmap] at hq
    obtain ⟨p, hp, rfl⟩ := List.mem_map.1 hq
    rw [(hfixed p).2, hpolicy p hp]
  · have haddress : (fun p => (f p).address) = (·.address) := funext fun p => (hfixed p).1
    rwa [hmap, List.map_map, Function.comp_def, haddress]

/-- Driving the bus changes no active bit. -/
theorem Env.activeCount_afterDrive (e : Env) : e.afterDrive.activeCount = e.activeCount := by
  simp [activeCount_eq_countP, afterDrive_eq, List.countP_map, Function.comp_def]

theorem Env.activeCount_observe_data (e : Env) (v : Word) : (e.observe ⟨.data, v⟩).activeCount = e.activeCount := by
  simp [activeCount_eq_countP, Env.observe, Peripheral.observe_data, List.countP_map, Function.comp_def]

/-- The idea of spec/47_flags_and_io.md R336: after an OUT Addr an exclusive peripheral is active only if the word is
its own address, and no two have the same. -/
theorem Env.activeCount_observe_addr_le {e : Env} (h : e.soleSelection) (v : Word) :
    (e.observe ⟨.addr, v⟩).activeCount ≤ 1 := by
  obtain ⟨hpolicy, hnodup, -⟩ := h
  have hown : ∀ p ∈ e.peripherals, (p.observe ⟨.addr, v⟩).active = true → (p.address == v) = true := by
    intro p hp hactive
    rw [Peripheral.observe_addr, Peripheral.activeAfterAddr_of_exclusive (hpolicy p hp)] at hactive
    exact beq_iff_eq.2 (of_decide_eq_true hactive).2.symm
  calc (e.observe ⟨.addr, v⟩).activeCount
      = e.peripherals.countP fun p => (p.observe ⟨.addr, v⟩).active :=
        (activeCount_eq_countP _).trans List.countP_map
    _ ≤ e.peripherals.countP fun p => p.address == v := List.countP_mono_left hown
    _ = (e.peripherals.map (·.address)).count v := by rw [List.count, List.countP_map, Function.comp_def]
    _ ≤ 1 := List.nodup_iff_count_le_one.1 hnodup v

theorem Env.soleSelection_afterDrive {e : Env} (h : e.soleSelection) : e.afterDrive.soleSelection := by
  have ⟨_, _, hcount⟩ := h
  refine soleSelection_of_map h rfl (fun p => ?_) ((activeCount_afterDrive e).trans_le hcount)
  obtain ⟨haddr, hpolicy, -⟩ := p.driven_fixed
  exact ⟨haddr, hpolicy⟩

theorem Env.soleSelection_observe {e : Env} (h : e.soleSelection) (ev : OutEvent) : (e.observe ev).soleSelection := by
  refine soleSelection_of_map h rfl (fun p => ?fixed) ?count
  case fixed =>
    obtain ⟨haddr, hpolicy, -⟩ := p.observe_fixed ev
    exact ⟨haddr, hpolicy⟩
  case count =>
    have ⟨_, _, hcount⟩ := h
    obtain ⟨da, v⟩ := ev
    cases da with
    | data => exact (activeCount_observe_data e v).trans_le hcount
    | addr => exact activeCount_observe_addr_le h v

theorem exchange_soleSelection (c : Control) (da : IoSel) (bus : Word) {e : Env} (h : e.soleSelection) :
    (exchange c da bus e).soleSelection := by
  unfold exchange
  split
  · exact Env.soleSelection_afterDrive h
  · split
    · exact Env.soleSelection_observe h ⟨da, bus⟩
    · exact h

/-- With one active peripheral at most no words collide, and the exchange keeps it so. -/
theorem phaseStep_soleSelection {s : State} (h : s.env.soleSelection) :
    ∃ t, phaseStep s = .next t ∧ t.env.soleSelection := by
  obtain ⟨t, ht⟩ | ⟨-, -, -, -, hactive, -⟩ := (phaseStepFaultsOnlyAtInOfTwoPeripherals s).1
  · obtain ⟨bus, -, rfl⟩ := phaseStep_next ht
    exact ⟨_, ht, exchange_soleSelection s.nextControl (fieldDa s.ir) bus h⟩
  · have ⟨_, _, hone⟩ := h
    omega

theorem phaseSteps_soleSelection (n : Nat) {s : State} (h : s.env.soleSelection) :
    ∃ t, phaseSteps n s = .next t ∧ t.env.soleSelection := by
  induction n generalizing s with
  | zero => exact ⟨s, rfl, h⟩
  | succ n ih =>
    obtain ⟨u, hu, henv⟩ := phaseStep_soleSelection h
    rw [phaseSteps_succ n hu]
    exact ih henv

/-- A step is some number of calls of `Step()`: the six of an instruction, or those left of it. -/
theorem exists_step_eq_phaseSteps (s : State) : ∃ n, step s = phaseSteps n s := by
  cases hb : s.phase.isBoundary with
  | true => exact ⟨_, step_eq_phaseSteps hb⟩
  | false => exact ⟨_, step_inside hb⟩

/-- Settles O52: each phase keeps the sole selection, and a step is made of phases. -/
theorem exclusivePeripheralsNeverCollide : Obligations.ExclusivePeripheralsNeverCollide := by
  refine ⟨fun s hs => ?_, fun s => phaseStep_soleSelection⟩
  obtain ⟨n, hn⟩ := exists_step_eq_phaseSteps s
  rw [hn]
  exact phaseSteps_soleSelection n hs

/-! ### CLF, IN and OUT -/

/-- Settles O42: CLF and the bytes 0x61 to 0x6F have the one effect, `clearFlags`. -/
theorem clfClearsAllFlags : Obligations.ClfClearsAllFlags := fun ign _ =>
  ⟨exec_of_completes .clf, exec_of_completes (.clfUndef ign)⟩

theorem mainBus_drive_of_none_active {e : Env} (h : e.peripherals.filter (·.active) = []) (da : IoSel) :
    mainBus (e.drive da) = some 0 := by
  rw [Env.drive, h]
  rfl

theorem mainBus_drive_of_one_active {e : Env} {p : Peripheral} (h : e.peripherals.filter (·.active) = [p])
    (da : IoSel) : mainBus (e.drive da) = some (p.word e.draws da) := by
  rw [Env.drive, h]
  rfl

/-- Settles O43: the clauses are the values of the main bus, onto which each active peripheral drives one word. -/
theorem inLatchesThePeripheralsWord : Obligations.InLatchesThePeripheralsWord := by
  intro da b s env henv
  have hcompletes {v : Word} (hbus : mainBus (s.env.drive da) = some v) :
      exec (.inp da b) s = .next { s with regs := s.regs.set b v, env := env, phase := .p6 } := by
    rw [henv, ← Env.afterDrive_eq]
    exact exec_inp_of_bus b hbus
  refine ⟨fun hnone => hcompletes (mainBus_drive_of_none_active hnone da),
    fun p v rest hone hinputs => hcompletes ?queued, fun p hone hinputs => hcompletes ?free, fun htwo => ?collision⟩
  case queued => rw [mainBus_drive_of_one_active hone, Peripheral.word, hinputs]
  case free => rw [mainBus_drive_of_one_active hone, Peripheral.word, hinputs]
  case collision =>
    rw [← Env.drive_length s.env da] at htwo
    exact exec_inp_of_collision b ((mainBus_none_iff _).2 htwo)

/-- Settles O44: OUT's meaning emits the one event. -/
theorem outEmitsTheRegister : Obligations.OutEmitsTheRegister := fun da b _ =>
  exec_of_completes (.outp da b)

end Sys2Proof.Machine

/-! PROOFS of the family 60_exceptions and 70_reset_and_hazards: which instruction faults, and in which states; the
self-jump; the frame of the flags, TMP and CT; and the plain results after CLF. -/

namespace Sys2Proof.Machine

/-! ### The one fault of a meaning -/

/-- Each active peripheral drives one word, so the bus of an IN has no value exactly when two or more are active. -/
theorem mainBus_drive_eq_none_iff {e : Env} {da : IoSel} : mainBus (e.drive da) = none ↔ 2 ≤ e.activeCount := by
  rw [mainBus_none_iff, Env.drive_length, Env.activeCount]

/-- Settles O46: a meaning leaves a state, or it is that of an IN with no value on the bus. -/
theorem everyInstructionCompletes : Obligations.EveryInstructionCompletes := by
  intro i s
  constructor
  · obtain ⟨t, ht⟩ | ⟨da, b, rfl, hbus⟩ := exists_completes i s
    · exact .inl ⟨t, exec_of_completes ht⟩
    · exact .inr ⟨⟨da, b, rfl⟩, mainBus_drive_eq_none_iff.1 hbus, exec_inp_of_collision b hbus⟩
  · rintro da b rfl htwo
    exact exec_inp_of_collision b (mainBus_drive_eq_none_iff.2 htwo)

/-! ### The self-jump -/

theorem State.atSelfJump_iff {s : State} :
    s.atSelfJump = true ↔ s.phase.isBoundary = true ∧ nextInstr s = .jmp s.iar := by
  rw [State.atSelfJump, Bool.and_eq_true, beq_iff_eq]

/-- The jump to itself takes IAR back to where the fetch found it (spec/60_exceptions.md R364). -/
theorem step_of_atSelfJump {s : State} (h : s.atSelfJump = true) :
    step s = .next { s with ir := s.load s.iar, mar := s.iar + 1, acc := s.iar + 1, phase := .p6 } := by
  obtain ⟨hs, hi⟩ := State.atSelfJump_iff.1 h
  rw [step_boundary hs, hi]
  exact exec_of_completes (.jmp s.iar)

/-- Settles O58: IAR and memory are as before the jump, so it is fetched again, and IR, MAR and ACC take the words they
hold already. -/
theorem selfJumpIsAFixedPoint : Obligations.SelfJumpIsAFixedPoint := by
  intro s h
  obtain ⟨-, hi⟩ := State.atSelfJump_iff.1 h
  exact ⟨_, rfl, step_of_atSelfJump h, step_of_atSelfJump (State.atSelfJump_iff.2 ⟨rfl, hi⟩)⟩

/-! ### The frame of the flags, TMP and CT -/

theorem Completes.flags_eq {i : Instr} {s t : State} (h : Completes s i t) (halu : i.isAluInstr = false)
    (hclf : i.isClf = false) : t.flags = s.flags := by
  cases h with
  | clf => cases hclf
  | clfUndef ign => cases hclf
  | alu op a b => simp at halu
  | _ => rfl

theorem Completes.tmp_ct_eq {i : Instr} {s t : State} (h : Completes s i t) (halu : i.isAluInstr = false) :
    t.tmp = s.tmp ∧ t.ct = s.ct := by
  cases h with
  | alu op a b => simp at halu
  | _ => exact ⟨rfl, rfl⟩

/-- Settles O48, from the frame of each field. -/
theorem flagsChangeOnlyByAluAndClf : Obligations.FlagsChangeOnlyByAluAndClf := by
  intro i s t h
  have hc : Completes s i t := exec_next_iff.1 h
  exact ⟨hc.flags_eq, hc.tmp_ct_eq⟩

/-! ### The carry-in after CLF -/

/-- What an ALU instruction writes back, with the carry flag as its carry-in (spec/45_alu_instructions.md R280). -/
theorem exec_aluInstr_reg {op : AluOp} (hwrites : aluWritesRegister op = true) (a b : Reg) (s : State) :
    ∃ u, exec (aluInstr op a b) s = .next u ∧ u.reg b = aluOut op (s.reg a) (s.reg b) s.flags.c := by
  refine ⟨_, exec_aluInstr_of_writes hwrites rfl rfl .rfl, ?_⟩
  exact (RegFile.get_set _ b b _).trans (if_pos rfl)

/-- Run on the state the fetch after a CLF leaves, an ALU instruction has the operands from before and carry-in 0
(spec/70_reset_and_hazards.md R386). -/
theorem exec_aluInstr_reg_after_clf {op : AluOp} (hwrites : aluWritesRegister op = true) (a b : Reg) {s t : State}
    (h : exec .clf s = .next t) :
    ∃ u, exec (aluInstr op a b) (fetch t) = .next u ∧ u.reg b = aluOut op (s.reg a) (s.reg b) false := by
  cases (exec_of_completes .clf).symm.trans h
  exact exec_aluInstr_reg hwrites a b (fetch (clearFlags s))

theorem aluOut_add_false (x y : Word) : aluOut .add x y false = x + y := (BitVec.add_def ..).symm

theorem aluOut_shr_false (x y : Word) : aluOut .shr x y false = x >>> 1 := by simp [aluOut, bitWord]

theorem aluOut_shl_false (x y : Word) : aluOut .shl x y false = x <<< 1 := by simp [aluOut, bitWord]

/-- Settles O59: the three operations differ from the plain ones by the carry-in alone. -/
theorem clfMakesAddAndShiftsPlain : Obligations.ClfMakesAddAndShiftsPlain := by
  intro a b s t h
  rw [← aluOut_add_false, ← aluOut_shr_false _ (s.reg b), ← aluOut_shl_false _ (s.reg b)]
  exact ⟨exec_aluInstr_reg_after_clf (op := .add) rfl a b h, exec_aluInstr_reg_after_clf (op := .shr) rfl a b h,
    exec_aluInstr_reg_after_clf (op := .shl) rfl a b h⟩

end Sys2Proof.Machine
